-- ==== Sys2Proof/Word.lean ====
section
/-! DEFINITION. The bit-vector types of 00_scope.md R7: u8, u16, u24 and u32, all unsigned. -/

namespace Sys2Proof

/-- `u8`: one byte of a checksum input, the running register, a checksum. -/
abbrev Byte := BitVec 8

/-- `u16`: one data word as it crosses the wire, two bytes in big-endian order (20_memory.md R41). -/
abbrev Half := BitVec 16

/-- `u24`: one 3-byte group carried in a field (20_memory.md R46). -/
abbrev Group := BitVec 24

/-- `u32`: one command word or one response word (20_memory.md R48). -/
abbrev Word := BitVec 32

end Sys2Proof
end

