-- ==== Sys2Proof/Config.lean ====
section
/-! DEFINITION. The unit's parameters: 00_scope.md R2 (fixed by the source), R6 (fixed or named open). -/

namespace Sys2Proof.Config

/-- CK8_WIDTH: the running register has 8 bits, so one byte takes 8 shift iterations (R2, R80). -/
def ck8Width : Nat := 8

/-- CK8_POLY, x^8 + x^5 + x^4 + 1 with the x^8 term implicit (R2). -/
def ck8Poly : Byte := 0x31

/-- CK8_INIT (R2). It is the initial value of a computation; the reset value of CRC equals it by R21. -/
def ck8Init : Byte := 0xFF

/-- CK8_XOROUT: no final XOR (R2). -/
def ck8XorOut : Byte := 0x00

/-- CK8_REFIN: input bytes are not reflected (R2). -/
def ck8RefIn : Bool := false

/-- CK8_REFOUT: the result is not reflected (R2). -/
def ck8RefOut : Bool := false

/-- A group has 2 data bytes and 1 checksum byte (R6, 20_memory.md R42). -/
def groupLength : Nat := 3

/-- The most operands `fmt.packn` and `fmt.checkn` take (30_encoding.md R69). It limits the assembler's
notation only: the unit itself has no count (91_not_in_source.md N12). -/
def maxPseudoOperands : Nat := 3

/-- CK8_LATENCY: the time from the acceptance of the n-th command to its response. OPEN (R6, R165): some finite
number for each command, and no rule depends on it. The model holds no time (assumption log 8). -/
opaque ck8Latency : Nat → Nat

/-- CK8_MMIO_BASE: where a system maps the two ports, if it does. OPEN, a parameter of the system and not of the
unit (R6, 20_memory.md R40; assumption log 9). -/
opaque ck8MmioBase : Nat

/-- The command port's offset from CK8_MMIO_BASE, OPEN in the same way. -/
opaque ck8CommandOffset : Nat

/-- The response port's offset from CK8_MMIO_BASE, OPEN in the same way. -/
opaque ck8ResponseOffset : Nat

end Sys2Proof.Config
end

