-- ==== Sys2Proof/Syntax.lean ====
section
/-! DEFINITION. The eight commands of CK8, one constructor per row of opcode_table.json (30_encoding.md R61). -/

namespace Sys2Proof

/-- One legal command with its operand. The operand types are the widths of 30_encoding.md R62, so an operand that
does not fit its field cannot be written: every term of this type is well-formed. -/
inductive Instr where
  /-- `ck.init`: start a new checksum (40_checksum.md R83). -/
  | ckInit
  /-- `ck.feed`: accumulate one byte (R84). -/
  | ckFeed (imm8 : Byte)
  /-- `ck.feed2`: accumulate one word in big-endian order (R85). -/
  | ckFeed2 (imm16 : Half)
  /-- `ck.read`: return the running checksum (R86). -/
  | ckRead
  /-- `fmt.pack`: pack one word into a group (41_frame.md R100). -/
  | fmtPack (imm16 : Half)
  /-- `fmt.check`: check one received group (R101). -/
  | fmtCheck (imm24 : Group)
  /-- `ck.stat`: read the STATUS view (42_status.md R120). -/
  | ckStat
  /-- `ck.clr`: clear the sticky error flags (R121). -/
  | ckClr
deriving DecidableEq, Repr

end Sys2Proof
end

