-- ==== Sys2Proof/Syntax/Source.lean ====
section
/-! DEFINITION. Assembly source as 30_encoding.md R68 and R69 give it: statements and pseudo-instructions whose
immediates are the numbers the programmer wrote, which may not fit (WellFormed.lean says when they do). -/

namespace Sys2Proof

/-- One statement of 30_encoding.md R68. An immediate is a literal of any size here. -/
inductive Statement where
  | ckInit
  | ckFeed (imm : Nat)
  | ckFeed2 (imm : Nat)
  | ckRead
  | fmtPack (imm : Nat)
  | fmtCheck (imm : Nat)
  | ckStat
  | ckClr
  /-- `.word`: the 32-bit word as it is, legal or not. -/
  | word (imm : Nat)
deriving DecidableEq, Repr

/-- One pseudo-instruction of 30_encoding.md R69. The two with several operands have a first one and a list of
further ones, so they always have at least one. -/
inductive Pseudo where
  | ckSumw (imm : Nat)
  | fmtPackn (first : Nat) (more : List Nat)
  | fmtCheckn (first : Nat) (more : List Nat)
deriving DecidableEq, Repr

/-- One line of assembly source: nothing (a blank line or a comment alone, assumption log 10), a statement, or a
pseudo-instruction. -/
inductive SourceLine where
  | blank
  | statement (st : Statement)
  | pseudo (p : Pseudo)
deriving DecidableEq, Repr

end Sys2Proof
end

