-- ==== Sys2Proof/WellFormed.lean ====
section
/-! DEFINITION. When a piece of assembly source is well-formed (30_encoding.md R68, R69). A term of `Instr` needs no
check: its operand types are the field widths of R62. What a command WORD must satisfy (R62, R64) is the decoder's
business (Decode.lean). -/

namespace Sys2Proof

/-- An unsigned immediate fits a field of `bits` bits. R68 rejects one that does not; it is never truncated. -/
def fits (bits imm : Nat) : Bool := decide (imm < 2 ^ bits)

/-- R68: imm8 ≤ 0xFF, imm16 ≤ 0xFFFF, imm24 ≤ 0xFF_FFFF; `.word` takes a 32-bit word, and a larger number
is refused like the others (DESIGN CHOICE, safe, assumption log 10). -/
def Statement.wellFormed : Statement → Bool
  | .ckInit => true
  | .ckFeed imm => fits 8 imm
  | .ckFeed2 imm => fits 16 imm
  | .ckRead => true
  | .fmtPack imm => fits 16 imm
  | .fmtCheck imm => fits 24 imm
  | .ckStat => true
  | .ckClr => true
  | .word imm => fits 32 imm

/-- R69: `ck.sumw` takes one 16-bit word, `fmt.packn` 1 to 3 words, `fmt.checkn` 1 to 3 groups. -/
def Pseudo.wellFormed : Pseudo → Bool
  | .ckSumw imm => fits 16 imm
  | .fmtPackn first more => fits 16 first && more.all (fits 16) && decide (more.length < Config.maxPseudoOperands)
  | .fmtCheckn first more => fits 24 first && more.all (fits 24) && decide (more.length < Config.maxPseudoOperands)

/-- A line is well-formed when what it holds is. -/
def SourceLine.wellFormed : SourceLine → Bool
  | .blank => true
  | .statement st => st.wellFormed
  | .pseudo p => p.wellFormed

end Sys2Proof
end

