-- ==== Sys2Proof/Decode.lean ====
section
/-! DEFINITION. Command words: the fields of 30_encoding.md R60, the decoder of R63, the encoder of R61 and R62, the rows
of opcode_table.json, and the decoder under the table's bit numbering. A command word is one indivisible 32-bit unit
(20_memory.md R48), so no byte order enters here. -/

namespace Sys2Proof

/-- OP, bits 31:28 (R60). -/
def opField (cmd : Word) : BitVec 4 := cmd.extractLsb' 28 4

/-- RSV, bits 27:24, which must be 0 (R60). -/
def rsvField (cmd : Word) : BitVec 4 := cmd.extractLsb' 24 4

/-- OPD, bits 23:0 (R60). -/
def opdField (cmd : Word) : Group := cmd.extractLsb' 0 24

/-- imm8 = cmd[7:0] (R62). -/
def imm8Field (cmd : Word) : Byte := cmd.extractLsb' 0 8

/-- imm16 = cmd[15:0] (R62). -/
def imm16Field (cmd : Word) : Half := cmd.extractLsb' 0 16

/-- cmd[23:8], which must be 0 where the operand is imm8 (R62). -/
def aboveImm8 (cmd : Word) : BitVec 16 := cmd.extractLsb' 8 16

/-- cmd[23:16], which must be 0 where the operand is imm16 (R62). -/
def aboveImm16 (cmd : Word) : Byte := cmd.extractLsb' 16 8

/-- The instruction `i` where the condition on the unused operand bits holds, else Illegal (R63). -/
def legalIf (ok : Bool) (i : Instr) : Option Instr := if ok then some i else none

/-- The decoder of R63 once RSV has been checked. -/
def decodeOp (cmd : Word) : Option Instr :=
  match opField cmd with
  | 0x1 => legalIf (opdField cmd == 0) .ckInit
  | 0x2 => legalIf (aboveImm8 cmd == 0) (.ckFeed (imm8Field cmd))
  | 0x3 => legalIf (aboveImm16 cmd == 0) (.ckFeed2 (imm16Field cmd))
  | 0x4 => legalIf (opdField cmd == 0) .ckRead
  | 0x5 => legalIf (aboveImm16 cmd == 0) (.fmtPack (imm16Field cmd))
  | 0x6 => some (.fmtCheck (opdField cmd))
  | 0x7 => legalIf (opdField cmd == 0) .ckStat
  | 0x8 => legalIf (opdField cmd == 0) .ckClr
  | _ => none

/-- R63: total on 32-bit words; `none` is Illegal. -/
def decode (cmd : Word) : Option Instr :=
  if rsvField cmd == 0 then decodeOp cmd else none

/-- OP of each command (R61). -/
def opcode : Instr → BitVec 4
  | .ckInit => 0x1
  | .ckFeed _ => 0x2
  | .ckFeed2 _ => 0x3
  | .ckRead => 0x4
  | .fmtPack _ => 0x5
  | .fmtCheck _ => 0x6
  | .ckStat => 0x7
  | .ckClr => 0x8

/-- OPD of each command: the operand at its low end, every unused bit 0 (R62). -/
def operand : Instr → Group
  | .ckInit => 0
  | .ckFeed imm8 => 0#16 ++ imm8
  | .ckFeed2 imm16 => 0#8 ++ imm16
  | .ckRead => 0
  | .fmtPack imm16 => 0#8 ++ imm16
  | .fmtCheck imm24 => imm24
  | .ckStat => 0
  | .ckClr => 0

/-- The command word with the three fields of R60, RSV being 0. -/
def commandWord (op : BitVec 4) (opd : Group) : Word := op ++ 0#4 ++ opd

/-- The command word of an instruction, `{OP, 0x0, OPD}` (R68). -/
def encode (i : Instr) : Word := commandWord (opcode i) (operand i)

/-- One row of opcode_table.json: a word belongs to it when its bits under `mask` are `value`. -/
structure OpcodeRow where
  mnemonic : String
  value : Word
  mask : Word
deriving DecidableEq, Repr

/-- `(cmd & mask) == match` (R63). -/
def OpcodeRow.covers (row : OpcodeRow) (cmd : Word) : Bool := cmd &&& row.mask == row.value

/-- The row of opcode_table.json an instruction belongs to. -/
def rowOf : Instr → OpcodeRow
  | .ckInit => ⟨"CK.INIT", 0x10000000, 0xFFFFFFFF⟩
  | .ckFeed _ => ⟨"CK.FEED", 0x20000000, 0xFFFFFF00⟩
  | .ckFeed2 _ => ⟨"CK.FEED2", 0x30000000, 0xFFFF0000⟩
  | .ckRead => ⟨"CK.READ", 0x40000000, 0xFFFFFFFF⟩
  | .fmtPack _ => ⟨"FMT.PACK", 0x50000000, 0xFFFF0000⟩
  | .fmtCheck _ => ⟨"FMT.CHECK", 0x60000000, 0xFF000000⟩
  | .ckStat => ⟨"CK.STAT", 0x70000000, 0xFFFFFFFF⟩
  | .ckClr => ⟨"CK.CLR", 0x80000000, 0xFFFFFFFF⟩

/-- The eight rows of opcode_table.json in its order. -/
def opcodeTable : List OpcodeRow :=
  [rowOf .ckInit, rowOf (.ckFeed 0), rowOf (.ckFeed2 0), rowOf .ckRead,
   rowOf (.fmtPack 0), rowOf (.fmtCheck 0), rowOf .ckStat, rowOf .ckClr]

/-- The command word whose bits, numbered as opcode_table.json numbers them, are the low `nbits` of `w`. Every row has
32 bits and bit 0 is the least significant, which is R7's own numbering (assumption log 6). -/
def tableWord (nbits w : Nat) : Word := BitVec.ofNat 32 (w % 2 ^ nbits)

/-- What the decoder reads from a word given in the table's numbering. -/
def decodeTableWord (nbits w : Nat) : Option Instr := decode (tableWord nbits w)

end Sys2Proof
end

