-- ==== Sys2Proof/Machine/State.lean ====
section
/-! DEFINITION. What the machine holds: the tuple of 10_state.md R20, and the three interfaces of R29 as plain data. -/

namespace Sys2Proof.Machine

/-- One thing the host does at the command port or the reset input (10_state.md R29). A step consumes one of them
(assumption log 1 and 2). -/
inductive HostEvent where
  /-- The host issues a command word; the unit accepts it, executes it and delivers its response. -/
  | command (cmd : Word)
  /-- The host issues a command word and reset is asserted before its response is delivered
  (70_reset_and_hazards.md R161). -/
  | commandCutByReset (cmd : Word)
  /-- Reset is asserted with no command in progress (R160). -/
  | reset
deriving DecidableEq, Repr

/-- The machine. The first four fields are the architectural state of 10_state.md R20, all of it; the last two are the
model's own record of the ports. -/
structure State where
  /-- CRC, the running checksum register (R21). -/
  crc : Byte
  /-- FED: a byte has gone into CRC since the last CK.INIT or reset (R22). -/
  fed : Bool
  /-- CKFAIL, sticky: an FMT.CHECK has found a mismatch (R23). -/
  ckfail : Bool
  /-- ILL, sticky: an illegal command word has been received (R24). -/
  ill : Bool
  /-- Command port and reset input: what the host does, oldest first (R29). -/
  inputs : List HostEvent
  /-- Response port: the response words delivered so far, in acceptance order (R29). Nothing reads it. -/
  responses : List Word
deriving DecidableEq, Repr

/-- Reset values of R21 to R24 (70_reset_and_hazards.md R160), with nothing on the ports (assumption log 2 and 3). -/
def State.reset : State :=
  { crc := 0xFF, fed := false, ckfail := false, ill := false, inputs := [], responses := [] }

/-- Reasons to stop with a fault: none. The unit is never stuck or halted (60_exceptions.md R141), and every error is
reported in a response word and a sticky bit (R140). No constructor is safe and none is unsafe, because there is none
(assumption log 7). -/
inductive Fault where
deriving DecidableEq, Repr

/-- Reasons for the model to refuse an instruction. -/
inductive Refusal where
  /-- An instruction that has no meaning yet. Only an arm of `exec` may raise it, and no arm does: every command is
  modelled. Safe: the model would stop where the hardware goes on. -/
  | notModelled (mnemonic : String)
deriving DecidableEq, Repr

/-- What a meaning and a step answer. -/
abbrev Answer := Host.Outcome State Fault Refusal

end Sys2Proof.Machine
end

