-- ==== Sys2Proof/Machine/Ops.lean ====
section
/-! DEFINITION. The shared operations: writing a state element, delivering a response, the checksum of 40_checksum.md R80
and R81, the illegal-command event of 60_exceptions.md R141 with the clearing of its record beside it, reset, and taking
the host's next event. -/

namespace Sys2Proof.Machine

/-- `CRC <- v`. -/
def State.setCrc (s : State) (v : Byte) : State := { s with crc := v }

/-- `FED <- v`. -/
def State.setFed (s : State) (v : Bool) : State := { s with fed := v }

/-- `CKFAIL <- v`. -/
def State.setCkfail (s : State) (v : Bool) : State := { s with ckfail := v }

/-- `ILL <- v`. -/
def State.setIll (s : State) (v : Bool) : State := { s with ill := v }

/-- The host's events still to come. -/
def State.setInputs (s : State) (es : List HostEvent) : State := { s with inputs := es }

/-- `rsp <- w`: the response word is delivered after every earlier one (10_state.md R29). -/
def State.respond (s : State) (w : Word) : State := { s with responses := s.responses ++ [w] }

/-- One iteration of R80: shift left, a 0 entering bit 0, and XOR with the polynomial if the bit shifted out of bit 7
was set. -/
def crcShift (r : Byte) : Byte :=
  if r.getLsbD 7 then (r <<< 1) ^^^ Config.ck8Poly else r <<< 1

/-- `n` iterations of R80. -/
def crcShifts : Nat → Byte → Byte
  | 0, r => r
  | n + 1, r => crcShifts n (crcShift r)

/-- `crc8_step(c, b)` (R80). -/
def crc8Step (c b : Byte) : Byte := crcShifts Config.ck8Width (c ^^^ b)

/-- The running register after the bytes `bs`, first byte first, from the value `c` (20_memory.md R43). -/
def crcFrom (c : Byte) (bs : List Byte) : Byte := bs.foldl crc8Step c

/-- `crc8(bytes)` (R81). On the empty list its value is the initial value 0xFF, which is no checksum
(93_implementation_defined.md U1, assumption log 11). -/
def crc8 (bs : List Byte) : Byte := crcFrom Config.ck8Init bs

/-- The response word of an illegal command (30_encoding.md R66). -/
def illegalResponse : Word := 0xFFFFFFFF

/-- The IllegalCommand event (60_exceptions.md R141): ILL is recorded, the response is all ones, nothing else is
written, the word is not saved and control goes nowhere (R146). -/
def State.raiseIllegalCommand (s : State) : State := (s.setIll true).respond illegalResponse

/-- The sticky record of both error events is cleared: the only "return" the unit has (R146, 42_status.md R121). -/
def State.clearErrors (s : State) : State := (s.setCkfail false).setIll false

/-- The reset event (70_reset_and_hazards.md R160): every element of the tuple at its reset value. It delivers no
response (R161), and the responses the host already has stay as they are (assumption log 3). -/
def State.applyReset (s : State) : State :=
  { State.reset with inputs := s.inputs, responses := s.responses }

/-- The host's next event, and the state in which it has been taken off the ports. -/
def State.nextEvent (s : State) : Option (HostEvent × State) :=
  match s.inputs with
  | [] => none
  | e :: rest => some (e, s.setInputs rest)

end Sys2Proof.Machine
end

