-- ==== Sys2Proof/Machine/Operands.lean ====
section
/-! DEFINITION. The bytes of words and groups (20_memory.md R41, R42, R46), groups and payloads in wire order (R44), and the
response-word layouts of 30_encoding.md R66. -/

namespace Sys2Proof.Machine

/-- First byte of a word in wire order, `w[15:8]` (R41). -/
def hiByte (w : Half) : Byte := w.extractLsb' 8 8

/-- Second byte of a word in wire order, `w[7:0]` (R41). -/
def loByte (w : Half) : Byte := w.extractLsb' 0 8

/-- `be16(a, b)`: the word whose first byte is `a` (00_scope.md, glossary). -/
def be16 (a b : Byte) : Half := a ++ b

/-- Byte 0 of a group field, bits 23:16 (R46). -/
def groupByte0 (g : Group) : Byte := g.extractLsb' 16 8

/-- Byte 1 of a group field, bits 15:8 (R46). -/
def groupByte1 (g : Group) : Byte := g.extractLsb' 8 8

/-- The checksum byte of a group field, bits 7:0 (R46). -/
def groupCheckByte (g : Group) : Byte := g.extractLsb' 0 8

/-- The group field with these three bytes in wire order (R46). -/
def groupOf (b0 b1 k : Byte) : Group := b0 ++ b1 ++ k

/-- The checksum of a word's two bytes, high byte first (R42, R43): always from the initial value. -/
def checksumOfWord (w : Half) : Byte := crc8 [hiByte w, loByte w]

/-- The word carried by a group: its first two bytes, big-endian (R42). -/
def wordOfGroup (g : Group) : Half := be16 (groupByte0 g) (groupByte1 g)

/-- The checksum a group's third byte should be. -/
def computedChecksum (g : Group) : Byte := crc8 [groupByte0 g, groupByte1 g]

/-- MATCH of 41_frame.md R101: the third byte equals the checksum of the first two. -/
def groupMatches (g : Group) : Bool := groupCheckByte g == computedChecksum g

/-- The group of a word (R42). -/
def groupOfWord (w : Half) : Group := groupOf (hiByte w) (loByte w) (checksumOfWord w)

/-- The three bytes of a group in wire order (R46). -/
def groupBytes (g : Group) : List Byte := [groupByte0 g, groupByte1 g, groupCheckByte g]

/-- The payload that carries these words: one group per word, concatenated (R44). -/
def payloadOfWords : List Half → List Byte
  | [] => []
  | w :: ws => groupBytes (groupOfWord w) ++ payloadOfWords ws

/-- The groups of a payload, group k from bytes 3k, 3k+1 and 3k+2 (R44); `none` where the length is no multiple of 3,
which the host refuses before any command is issued (R47). -/
def groupsOfPayload : List Byte → Option (List Group)
  | [] => some []
  | b0 :: b1 :: k :: rest => (groupsOfPayload rest).map (groupOf b0 b1 k :: ·)
  | _ => none

/-- The response of CK.INIT and CK.CLR. -/
def zeroResponse : Word := 0

/-- `zext_32` of a byte: the response of CK.FEED, CK.FEED2 and CK.READ. -/
def byteResponse (b : Byte) : Word := b.setWidth 32

/-- The response of FMT.PACK, `{0x00, hi, lo, ck}`: the wire group at [23:0]. -/
def packResponse (g : Group) : Word := 0#8 ++ g

/-- The response of FMT.CHECK, `{0b0000000, MATCH, C, b0, b1}`. -/
def checkResponse (g : Group) : Word :=
  0#7 ++ BitVec.ofBool (groupMatches g) ++ computedChecksum g ++ wordOfGroup g

end Sys2Proof.Machine
end

