-- ==== Sys2Proof/Machine/Flags.lean ====
section
/-! DEFINITION. The STATUS view (10_state.md R25), the error events' codes (60_exceptions.md R140), and how FED and CKFAIL are
written. -/

namespace Sys2Proof.Machine

/-- The two error events (R140). -/
inductive ErrorEvent where
  | checksumMismatch
  | illegalCommand
deriving DecidableEq, Repr

/-- An event's code is the number of the STATUS bit that records it (R140). -/
def ErrorEvent.code : ErrorEvent → Nat
  | .checksumMismatch => 1
  | .illegalCommand => 2

/-- The sticky bit that records an event (R23, R24, R140). -/
def State.recorded (s : State) : ErrorEvent → Bool
  | .checksumMismatch => s.ckfail
  | .illegalCommand => s.ill

/-- STATUS: `zext_32({ILL, CKFAIL, FED})`, a view and no storage (R25, 42_status.md R120). -/
def State.status (s : State) : Word :=
  (BitVec.ofBool s.ill ++ BitVec.ofBool s.ckfail ++ BitVec.ofBool s.fed).setWidth 32

/-- CRC and FED of a fresh checksum (40_checksum.md R83). -/
def State.startChecksum (s : State) : State := (s.setCrc Config.ck8Init).setFed false

/-- CRC and FED after the bytes `bs`, at least one, have been accumulated (R84, R85). -/
def State.accumulate (s : State) (bs : List Byte) : State := (s.setCrc (crcFrom s.crc bs)).setFed true

/-- The ChecksumMismatch event where `ok` is false: CKFAIL is set; where it is true CKFAIL keeps its value (R23,
41_frame.md R101). -/
def State.recordCheck (s : State) (ok : Bool) : State := if ok then s else s.setCkfail true

end Sys2Proof.Machine
end

