-- ==== Sys2Proof/Machine/Checksum.lean ====
section
/-! DEFINITION. The checksum accumulator's commands (40_checksum.md). -/

namespace Sys2Proof.Machine

/-- CK.INIT (R83). -/
def execCkInit (s : State) : Answer :=
  .next (s.startChecksum.respond zeroResponse)

/-- CK.FEED (R84): the response is the new CRC. -/
def execCkFeed (imm8 : Byte) (s : State) : Answer :=
  let s' := s.accumulate [imm8]
  .next (s'.respond (byteResponse s'.crc))

/-- CK.FEED2 (R85): high byte first, one response with the final CRC. -/
def execCkFeed2 (imm16 : Half) (s : State) : Answer :=
  let s' := s.accumulate [hiByte imm16, loByte imm16]
  .next (s'.respond (byteResponse s'.crc))

/-- CK.READ (R86). -/
def execCkRead (s : State) : Answer :=
  .next (s.respond (byteResponse s.crc))

end Sys2Proof.Machine
end

