-- ==== Sys2Proof/Machine/Frame.lean ====
section
/-! DEFINITION. The frame formatter's commands (41_frame.md). -/

namespace Sys2Proof.Machine

/-- FMT.PACK (R100): no state is written. -/
def execFmtPack (imm16 : Half) (s : State) : Answer :=
  .next (s.respond (packResponse (groupOfWord imm16)))

/-- FMT.CHECK (R101): a mismatch sets CKFAIL, and the whole response is delivered either way. -/
def execFmtCheck (imm24 : Group) (s : State) : Answer :=
  .next ((s.recordCheck (groupMatches imm24)).respond (checkResponse imm24))

end Sys2Proof.Machine
end

