-- ==== Sys2Proof/Machine/Status.lean ====
section
/-! DEFINITION. The status commands (42_status.md). -/

namespace Sys2Proof.Machine

/-- CK.STAT (R120): reading clears nothing. -/
def execCkStat (s : State) : Answer :=
  .next (s.respond s.status)

/-- CK.CLR (R121): CRC and FED survive. -/
def execCkClr (s : State) : Answer :=
  .next (s.clearErrors.respond zeroResponse)

end Sys2Proof.Machine
end

