-- ==== Sys2Proof/Machine/Dispatch.lean ====
section
/-! DEFINITION. One arm per command: the meaning it has. -/

namespace Sys2Proof.Machine

/-- What one legal command does, its response among it. -/
def exec (i : Instr) (s : State) : Host.Outcome State Fault Refusal :=
  match i with
  | .ckInit => Sys2Proof.Machine.execCkInit s
  | .ckFeed imm8 => Sys2Proof.Machine.execCkFeed imm8 s
  | .ckFeed2 imm16 => Sys2Proof.Machine.execCkFeed2 imm16 s
  | .ckRead => Sys2Proof.Machine.execCkRead s
  | .fmtPack imm16 => Sys2Proof.Machine.execFmtPack imm16 s
  | .fmtCheck imm24 => Sys2Proof.Machine.execFmtCheck imm24 s
  | .ckStat => Sys2Proof.Machine.execCkStat s
  | .ckClr => Sys2Proof.Machine.execCkClr s

end Sys2Proof.Machine
end

