-- ==== Sys2Proof/Machine/Step.lean ====
section
/-! DEFINITION. One step: the unit takes the host's next event. Decoding, the events and reset are the operations of
Decode.lean and Machine/Ops.lean; this file only puts them together. -/

namespace Sys2Proof.Machine

/-- An accepted command word: legality first, then execution (60_exceptions.md R143). -/
def execWord (cmd : Word) (s : State) : Answer :=
  match decode cmd with
  | some i => exec i s
  | none => .next s.raiseIllegalCommand

/-- What one host event does to the unit. -/
def handle (e : HostEvent) (s : State) : Answer :=
  match e with
  | .command cmd => execWord cmd s
  | .commandCutByReset _ => .next s.applyReset
  | .reset => .next s.applyReset

/-- One step: one host event, whole (20_memory.md R48, R49). With nothing on the ports the unit waits and nothing
changes (assumption log 4). -/
def step (s : State) : Host.Outcome State Fault Refusal :=
  match s.nextEvent with
  | none => .next s
  | some (e, s') => handle e s'

/-- The command word `w`, in the table's numbering, at the head of the command port: the host issues it next
(assumption log 5). -/
def State.withFetchWord (s : State) (nbits w : Nat) : State :=
  s.setInputs (.command (tableWord nbits w) :: s.inputs)

end Sys2Proof.Machine
end

