-- ==== Sys2Proof/Machine/Assembler.lean ====
section
/-! DEFINITION. The assembler of 30_encoding.md R68 and R69: statements and pseudo-instructions to command words, and source
lines to statements. Where R68 leaves a lexical point open, assumption log 10 says what is done here. -/

namespace Sys2Proof.Machine

/-- The command word of a statement; `none` where its immediate does not fit, which is rejected and never truncated
(R68; for `.word`, assumption log 10). -/
def assembleStatement (st : Statement) : Option Word :=
  if st.wellFormed then
    match st with
    | .ckInit => some (encode .ckInit)
    | .ckFeed imm => some (encode (.ckFeed (BitVec.ofNat 8 imm)))
    | .ckFeed2 imm => some (encode (.ckFeed2 (BitVec.ofNat 16 imm)))
    | .ckRead => some (encode .ckRead)
    | .fmtPack imm => some (encode (.fmtPack (BitVec.ofNat 16 imm)))
    | .fmtCheck imm => some (encode (.fmtCheck (BitVec.ofNat 24 imm)))
    | .ckStat => some (encode .ckStat)
    | .ckClr => some (encode .ckClr)
    | .word imm => some (BitVec.ofNat 32 imm)
  else none

/-- The words of several statements, `none` if one of them is rejected. -/
def assembleStatements : List Statement → Option (List Word)
  | [] => some []
  | st :: rest =>
    match assembleStatement st, assembleStatements rest with
    | some w, some ws => some (w :: ws)
    | _, _ => none

/-- The statements a pseudo-instruction stands for, in order (R69). -/
def expandPseudo : Pseudo → List Statement
  | .ckSumw imm => [.ckInit, .ckFeed2 imm]
  | .fmtPackn first more => (first :: more).map .fmtPack
  | .fmtCheckn first more => .ckClr :: (first :: more).map .fmtCheck ++ [.ckStat]

/-- The command words of a pseudo-instruction; `none` where it is not well-formed. -/
def assemblePseudo (p : Pseudo) : Option (List Word) :=
  if p.wellFormed then assembleStatements (expandPseudo p) else none

/-- The command words of a line. -/
def assembleLine : SourceLine → Option (List Word)
  | .blank => some []
  | .statement st => (assembleStatement st).map ([·])
  | .pseudo p => assemblePseudo p

/-- A lexical token of a source line. -/
inductive Token where
  | text (cs : List Char)
  | comma
deriving DecidableEq, Repr

/-- The characters read so far (latest first) as a token before `ts`, if there are any. -/
def flushText (acc : List Char) (ts : List Token) : List Token :=
  if acc.isEmpty then ts else .text acc.reverse :: ts

/-- Space and tab separate tokens. -/
def isBlankChar (c : Char) : Bool := c == ' ' || c == '\t'

/-- The tokens of a line up to its comment, which runs from `;` to the end (R68). -/
def lexLine (acc : List Char) : List Char → List Token
  | [] => flushText acc []
  | c :: cs =>
    if c == ';' then flushText acc []
    else if c == ',' then flushText acc (.comma :: lexLine [] cs)
    else if isBlankChar c then flushText acc (lexLine [] cs)
    else lexLine (c :: acc) cs

/-- The value of a digit character in base 16. -/
def hexDigit (c : Char) : Option Nat :=
  let n := c.toNat
  if 48 ≤ n && n ≤ 57 then some (n - 48)
  else if 97 ≤ n && n ≤ 102 then some (n - 87)
  else if 65 ≤ n && n ≤ 70 then some (n - 55)
  else none

/-- The digits of a literal in base `base`, from the value `v` of those already read; `seen` says there was one.
Separators `_` have no meaning (R68). -/
def readDigits (base v : Nat) (seen : Bool) : List Char → Option Nat
  | [] => if seen then some v else none
  | c :: cs =>
    if c == '_' then readDigits base v seen cs
    else
      match hexDigit c with
      | some d => if d < base then readDigits base (base * v + d) true cs else none
      | none => none

/-- An immediate: a `0x` hexadecimal literal or an unsigned decimal one (R68). -/
def readImmediate : List Char → Option Nat
  | '0' :: 'x' :: cs => readDigits 16 0 false cs
  | cs => readDigits 10 0 false cs

/-- Further operands, each after a comma. -/
def readMore : List Token → Option (List Nat)
  | [] => some []
  | .comma :: .text cs :: rest =>
    match readImmediate cs, readMore rest with
    | some n, some ns => some (n :: ns)
    | _, _ => none
  | _ => none

/-- The operands of a statement: none, or one and then more after commas. -/
def readOperands : List Token → Option (List Nat)
  | [] => some []
  | .text cs :: rest =>
    match readImmediate cs, readMore rest with
    | some n, some ns => some (n :: ns)
    | _, _ => none
  | _ => none

/-- A line from its mnemonic, in lower case, and its operands (R68, R69). -/
def readLine (mnemonic : List Char) (operands : List Nat) : Option SourceLine :=
  if mnemonic = ['c', 'k', '.', 'i', 'n', 'i', 't'] then
    match operands with | [] => some (.statement .ckInit) | _ => none
  else if mnemonic = ['c', 'k', '.', 'f', 'e', 'e', 'd'] then
    match operands with | [n] => some (.statement (.ckFeed n)) | _ => none
  else if mnemonic = ['c', 'k', '.', 'f', 'e', 'e', 'd', '2'] then
    match operands with | [n] => some (.statement (.ckFeed2 n)) | _ => none
  else if mnemonic = ['c', 'k', '.', 'r', 'e', 'a', 'd'] then
    match operands with | [] => some (.statement .ckRead) | _ => none
  else if mnemonic = ['f', 'm', 't', '.', 'p', 'a', 'c', 'k'] then
    match operands with | [n] => some (.statement (.fmtPack n)) | _ => none
  else if mnemonic = ['f', 'm', 't', '.', 'c', 'h', 'e', 'c', 'k'] then
    match operands with | [n] => some (.statement (.fmtCheck n)) | _ => none
  else if mnemonic = ['c', 'k', '.', 's', 't', 'a', 't'] then
    match operands with | [] => some (.statement .ckStat) | _ => none
  else if mnemonic = ['c', 'k', '.', 'c', 'l', 'r'] then
    match operands with | [] => some (.statement .ckClr) | _ => none
  else if mnemonic = ['.', 'w', 'o', 'r', 'd'] then
    match operands with | [n] => some (.statement (.word n)) | _ => none
  else if mnemonic = ['c', 'k', '.', 's', 'u', 'm', 'w'] then
    match operands with | [n] => some (.pseudo (.ckSumw n)) | _ => none
  else if mnemonic = ['f', 'm', 't', '.', 'p', 'a', 'c', 'k', 'n'] then
    match operands with | n :: ns => some (.pseudo (.fmtPackn n ns)) | _ => none
  else if mnemonic = ['f', 'm', 't', '.', 'c', 'h', 'e', 'c', 'k', 'n'] then
    match operands with | n :: ns => some (.pseudo (.fmtCheckn n ns)) | _ => none
  else none

/-- A source line read from its characters (no line break among them); `none` where it is no statement. -/
def parseLine (line : List Char) : Option SourceLine :=
  match lexLine [] line with
  | [] => some .blank
  | .text mnemonic :: rest =>
    match readOperands rest with
    | some operands => readLine mnemonic operands
    | none => none
  | .comma :: _ => none

/-- The command words of one line of text. -/
def assembleText (line : List Char) : Option (List Word) :=
  match parseLine line with
  | some l => assembleLine l
  | none => none

/-- The command words of a whole source, one line after another. -/
def assembleProgram : List (List Char) → Option (List Word)
  | [] => some []
  | line :: rest =>
    match assembleText line, assembleProgram rest with
    | some ws, some more => some (ws ++ more)
    | _, _ => none

end Sys2Proof.Machine
end

