-- ==== Sys2Proof/Safety.lean ====
section
/-! DEFINITION. The terms the statements are written in: the invariant of 10_state.md R22, the architectural tuple, runs of
host events, what an event feeds, writes or clears, and a second, bit-serial form of the checksum (00_scope.md R2). -/

namespace Sys2Proof.Machine

/-- R22: with FED = 0 the value of CRC is the initial value 0xFF. -/
def State.Consistent (s : State) : Prop := s.fed = false → s.crc = 0xFF

/-- Two states with the same architectural tuple (10_state.md R20). -/
def State.SameTuple (s t : State) : Prop :=
  s.crc = t.crc ∧ s.fed = t.fed ∧ s.ckfail = t.ckfail ∧ s.ill = t.ill

/-- `k` steps, stopping at the first fault or refusal (none ever comes). -/
def runSteps : Nat → State → Answer
  | 0, s => .next s
  | k + 1, s =>
    match step s with
    | .next s' => runSteps k s'
    | .fault r => .fault r
    | .refused r => .refused r

/-- `es` are the host's next events at `s`, and `t` is the state after them, `rs` the responses they delivered. -/
def Consumes (s : State) (es : List HostEvent) (rs : List Word) (t : State) : Prop :=
  ∃ rest, s.inputs = es ++ rest ∧ runSteps es.length s = .next t ∧
    t.inputs = rest ∧ t.responses = s.responses ++ rs

/-- An event that gets a response: a command word not cut by reset (10_state.md R29, 70_reset_and_hazards.md R161). -/
def HostEvent.answered : HostEvent → Bool
  | .command _ => true
  | .commandCutByReset _ => false
  | .reset => false

/-- An event that resets the unit (R160, R161). -/
def HostEvent.resets : HostEvent → Bool
  | .command _ => false
  | .commandCutByReset _ => true
  | .reset => true

/-- The bytes a command word feeds into CRC, in sequence order, read off the encodings of R84 and R85: CK.FEED is
0x2000_00bb, CK.FEED2 is 0x3000_hhll, and no other word feeds any (10_state.md R21). -/
def bytesFed (cmd : Word) : List Byte :=
  if cmd.extractLsb' 8 24 = 0x200000#24 then [cmd.extractLsb' 0 8]
  else if cmd.extractLsb' 16 16 = 0x3000#16 then [cmd.extractLsb' 8 8, cmd.extractLsb' 0 8]
  else []

/-- FMT.CHECK of the group `g`, in any state, answers MATCH = `matched`, the checksum `c` and the group's word, sets
CKFAIL exactly when `matched` is false, and writes nothing else (41_frame.md R101). -/
def CheckAnswers (g : Group) (matched : Bool) (c : Byte) : Prop :=
  ∀ s : State, exec (.fmtCheck g) s = .next
    { s with
      ckfail := s.ckfail || !matched
      responses := s.responses ++ [(0#7 ++ BitVec.ofBool matched ++ c ++ g.extractLsb' 8 16 : Word)] }

/-- The bits of a byte, most significant first. -/
def bitsMsbFirst (b : Byte) : List Bool :=
  [b.getLsbD 7, b.getLsbD 6, b.getLsbD 5, b.getLsbD 4, b.getLsbD 3, b.getLsbD 2, b.getLsbD 1, b.getLsbD 0]

/-- A byte with its bits in the other order. -/
def reflectByte (b : Byte) : Byte := b.reverse

/-- One bit of the message enters a bit-serial CRC register with polynomial `poly`. -/
def serialBit (poly r : Byte) (bit : Bool) : Byte :=
  if r.getLsbD 7 != bit then (r <<< 1) ^^^ poly else r <<< 1

/-- The bit-serial CRC with all six parameters of 00_scope.md R2 free (the width being 8): each byte, reflected if
`refIn`, goes in bit by bit, and the last register, reflected if `refOut`, is XORed with `xorOut`. -/
def serialCrc (poly init xorOut : Byte) (refIn refOut : Bool) (bs : List Byte) : Byte :=
  let byteIn := fun b => if refIn then reflectByte b else b
  let last := bs.foldl (fun r b => (bitsMsbFirst (byteIn b)).foldl (serialBit poly) r) init
  (if refOut then reflectByte last else last) ^^^ xorOut

/-- The step table T(x) = crc8_step(0x00, x) of 95_test_vectors.md section 2.1, row by row, high digit of x first. -/
def stepTable : List Byte :=
  [0x00, 0x31, 0x62, 0x53, 0xC4, 0xF5, 0xA6, 0x97, 0xB9, 0x88, 0xDB, 0xEA, 0x7D, 0x4C, 0x1F, 0x2E] ++
  [0x43, 0x72, 0x21, 0x10, 0x87, 0xB6, 0xE5, 0xD4, 0xFA, 0xCB, 0x98, 0xA9, 0x3E, 0x0F, 0x5C, 0x6D] ++
  [0x86, 0xB7, 0xE4, 0xD5, 0x42, 0x73, 0x20, 0x11, 0x3F, 0x0E, 0x5D, 0x6C, 0xFB, 0xCA, 0x99, 0xA8] ++
  [0xC5, 0xF4, 0xA7, 0x96, 0x01, 0x30, 0x63, 0x52, 0x7C, 0x4D, 0x1E, 0x2F, 0xB8, 0x89, 0xDA, 0xEB] ++
  [0x3D, 0x0C, 0x5F, 0x6E, 0xF9, 0xC8, 0x9B, 0xAA, 0x84, 0xB5, 0xE6, 0xD7, 0x40, 0x71, 0x22, 0x13] ++
  [0x7E, 0x4F, 0x1C, 0x2D, 0xBA, 0x8B, 0xD8, 0xE9, 0xC7, 0xF6, 0xA5, 0x94, 0x03, 0x32, 0x61, 0x50] ++
  [0xBB, 0x8A, 0xD9, 0xE8, 0x7F, 0x4E, 0x1D, 0x2C, 0x02, 0x33, 0x60, 0x51, 0xC6, 0xF7, 0xA4, 0x95] ++
  [0xF8, 0xC9, 0x9A, 0xAB, 0x3C, 0x0D, 0x5E, 0x6F, 0x41, 0x70, 0x23, 0x12, 0x85, 0xB4, 0xE7, 0xD6] ++
  [0x7A, 0x4B, 0x18, 0x29, 0xBE, 0x8F, 0xDC, 0xED, 0xC3, 0xF2, 0xA1, 0x90, 0x07, 0x36, 0x65, 0x54] ++
  [0x39, 0x08, 0x5B, 0x6A, 0xFD, 0xCC, 0x9F, 0xAE, 0x80, 0xB1, 0xE2, 0xD3, 0x44, 0x75, 0x26, 0x17] ++
  [0xFC, 0xCD, 0x9E, 0xAF, 0x38, 0x09, 0x5A, 0x6B, 0x45, 0x74, 0x27, 0x16, 0x81, 0xB0, 0xE3, 0xD2] ++
  [0xBF, 0x8E, 0xDD, 0xEC, 0x7B, 0x4A, 0x19, 0x28, 0x06, 0x37, 0x64, 0x55, 0xC2, 0xF3, 0xA0, 0x91] ++
  [0x47, 0x76, 0x25, 0x14, 0x83, 0xB2, 0xE1, 0xD0, 0xFE, 0xCF, 0x9C, 0xAD, 0x3A, 0x0B, 0x58, 0x69] ++
  [0x04, 0x35, 0x66, 0x57, 0xC0, 0xF1, 0xA2, 0x93, 0xBD, 0x8C, 0xDF, 0xEE, 0x79, 0x48, 0x1B, 0x2A] ++
  [0xC1, 0xF0, 0xA3, 0x92, 0x05, 0x34, 0x67, 0x56, 0x78, 0x49, 0x1A, 0x2B, 0xBC, 0x8D, 0xDE, 0xEF] ++
  [0x82, 0xB3, 0xE0, 0xD1, 0x46, 0x77, 0x24, 0x15, 0x3B, 0x0A, 0x59, 0x68, 0xFF, 0xCE, 0x9D, 0xAC]

end Sys2Proof.Machine
end

