-- ==== Sys2Proof/Certificates/Slice0/Obligations.lean ====
section
/-! DEFINITION. The statements about this machine, from the numbered rules of spec/. Command words are written out from the
encodings the rules give (0x200000bb is `0x200000#24 ++ b`, and so on), and every next state is given whole, so each
statement of an instruction is also its frame. -/

open Sys2Proof Sys2Proof.Machine

/-! ### Encoding -/

/-- 30_encoding.md R61 and R62 on words of 95_test_vectors.md: one word of each command, and nearby illegal ones. -/
def Obligations.SpecWordsDecodeAsListed : Prop :=
  decode 0x10000000 = some .ckInit ∧ decode 0x200000BE = some (.ckFeed 0xBE) ∧
  decode 0x3000BEEF = some (.ckFeed2 0xBEEF) ∧ decode 0x40000000 = some .ckRead ∧
  decode 0x5000BEEF = some (.fmtPack 0xBEEF) ∧ decode 0x60BEEF92 = some (.fmtCheck 0xBEEF92) ∧
  decode 0x70000000 = some .ckStat ∧ decode 0x80000000 = some .ckClr ∧
  decode 0x00000000 = none ∧ decode 0x11000000 = none ∧ decode 0x10000001 = none ∧ decode 0x20000100 = none ∧
  decode 0x30010000 = none ∧ decode 0x61BEEF92 = none ∧ decode 0x70000080 = none ∧ decode 0xFFFFFFFF = none

/-- R60 to R63: decoding an encoded command gives it back with every operand, and a word that decodes is the encoding
of what it decodes to, so no two words mean the same command. -/
def Obligations.DecodeAndEncodeAgree : Prop :=
  (∀ i : Instr, decode (encode i) = some i) ∧ (∀ (cmd : Word) (i : Instr), decode cmd = some i → encode i = cmd)

/-- R63: the decoder, clause by clause, as the set of words of each command; and its equivalence with the mask and
match rows of opcode_table.json, of which at most one covers a word. -/
def Obligations.DecoderIsTheSpecsFunction : Prop :=
  (∀ cmd : Word,
    (decode cmd = some .ckInit ↔ cmd = 0x10000000) ∧
    (∀ b : Byte, decode cmd = some (.ckFeed b) ↔ cmd = 0x200000#24 ++ b) ∧
    (∀ w : Half, decode cmd = some (.ckFeed2 w) ↔ cmd = 0x3000#16 ++ w) ∧
    (decode cmd = some .ckRead ↔ cmd = 0x40000000) ∧
    (∀ w : Half, decode cmd = some (.fmtPack w) ↔ cmd = 0x5000#16 ++ w) ∧
    (∀ g : Group, decode cmd = some (.fmtCheck g) ↔ cmd = 0x60#8 ++ g) ∧
    (decode cmd = some .ckStat ↔ cmd = 0x70000000) ∧
    (decode cmd = some .ckClr ↔ cmd = 0x80000000)) ∧
  (∀ cmd : Word, decode cmd ≠ none ↔ ∃ row ∈ opcodeTable, cmd &&& row.mask = row.value) ∧
  (∀ (cmd : Word) (i : Instr), decode cmd = some i → ∀ row ∈ opcodeTable, cmd &&& row.mask = row.value ↔ row = rowOf i)

/-- R64: which words are illegal, that each takes the illegal-command event, and how many words are legal. -/
def Obligations.IllegalWordsAreExactlyTheListed : Prop :=
  (∀ cmd : Word, decode cmd = none ↔
    (cmd.extractLsb' 28 4 = 0 ∨ 9 ≤ (cmd.extractLsb' 28 4).toNat ∨ cmd.extractLsb' 24 4 ≠ 0 ∨
     (cmd.extractLsb' 28 4 = 1 ∨ cmd.extractLsb' 28 4 = 4 ∨ cmd.extractLsb' 28 4 = 7 ∨ cmd.extractLsb' 28 4 = 8) ∧
       cmd.extractLsb' 0 24 ≠ 0 ∨
     cmd.extractLsb' 28 4 = 2 ∧ cmd.extractLsb' 8 16 ≠ 0 ∨
     (cmd.extractLsb' 28 4 = 3 ∨ cmd.extractLsb' 28 4 = 5) ∧ cmd.extractLsb' 16 8 ≠ 0)) ∧
  (∀ (cmd : Word) (s : State) (rest : List HostEvent), decode cmd = none → s.inputs = .command cmd :: rest →
    step s = .next { s with ill := true, inputs := rest, responses := s.responses ++ [0xFFFFFFFF] }) ∧
  (Finset.univ.filter fun cmd : Word => (decode cmd).isSome = true).card = 16908548

/-! ### Steps -/

/-- 20_memory.md R49 and 60_exceptions.md R143: a command word at the head of the port that decodes to `i` is taken off
the port and `i` is executed on the rest, whatever the state; and the word the host places is the one that runs. -/
def Obligations.StepRunsDecodedCommand : Prop :=
  (∀ (s : State) (cmd : Word) (i : Instr) (rest : List HostEvent), s.inputs = .command cmd :: rest →
    decode cmd = some i → step s = exec i { s with inputs := rest }) ∧
  (∀ (s : State) (nbits w : Nat) (i : Instr), decodeTableWord nbits w = some i →
    step (s.withFetchWord nbits w) = exec i s)

/-- With nothing on the ports the unit waits and nothing changes. The model's choice (assumption log 4): the spec has no
rule for a unit nobody drives. -/
def Obligations.IdleUnitWaitsUnchanged : Prop :=
  ∀ s : State, s.inputs = [] → step s = .next s

/-- 42_status.md R122: every legal command executes in every state, in any order and any number of times, and gets one
response, whose bit 31 is 0; nothing refuses it. -/
def Obligations.EveryLegalCommandAlwaysCompletes : Prop :=
  ∀ (s : State) (cmd : Word) (rest : List HostEvent), decode cmd ≠ none → s.inputs = .command cmd :: rest →
    ∃ (t : State) (r : Word), step s = .next t ∧ t.inputs = rest ∧ t.responses = s.responses ++ [r] ∧
      r.getLsbD 31 = false

/-- 10_state.md R29, 20_memory.md R49, 70_reset_and_hazards.md R165: the unit works through any list of host events,
never stopping; every command not cut by reset gets exactly one response; and the responses come in the order of the
commands, a later part of the list being handled in the state the earlier part left. -/
def Obligations.EveryEventIsHandledInOrder : Prop :=
  (∀ (s : State) (es rest : List HostEvent), s.inputs = es ++ rest →
    ∃ (rs : List Word) (t : State), Consumes s es rs t ∧ rs.length = es.countP HostEvent.answered) ∧
  (∀ (s u : State) (es es' : List HostEvent) (rs : List Word),
    Consumes s (es ++ es') rs u ↔
      ∃ (rs1 rs2 : List Word) (t : State), Consumes s es rs1 t ∧ Consumes t es' rs2 u ∧ rs = rs1 ++ rs2)

/-- 30_encoding.md R66: one response per accepted word; 0xFFFF_FFFF for an illegal one; for a legal one bit 31 is 0 and
the five fields are those of the layout table. `s` is the state before the command, `t` the state after it. -/
def Obligations.ResponseWordsFollowTheLayouts : Prop :=
  ∀ (s : State) (cmd : Word) (rest : List HostEvent), s.inputs = .command cmd :: rest →
    ∃ (t : State) (r : Word), step s = .next t ∧ t.responses = s.responses ++ [r] ∧
      (decode cmd = none → r = 0xFFFFFFFF) ∧
      (∀ i : Instr, decode cmd = some i →
        r.getLsbD 31 = false ∧ r.extractLsb' 25 7 = 0 ∧
        match i with
        | .ckInit => r.extractLsb' 0 25 = 0
        | .ckFeed _ => r.extractLsb' 8 17 = 0 ∧ r.extractLsb' 0 8 = t.crc
        | .ckFeed2 _ => r.extractLsb' 8 17 = 0 ∧ r.extractLsb' 0 8 = t.crc
        | .ckRead => r.extractLsb' 8 17 = 0 ∧ r.extractLsb' 0 8 = s.crc
        | .fmtPack w => r.getLsbD 24 = false ∧ r.extractLsb' 16 8 = w.extractLsb' 8 8 ∧
            r.extractLsb' 8 8 = w.extractLsb' 0 8 ∧
            r.extractLsb' 0 8 = crc8 [w.extractLsb' 8 8, w.extractLsb' 0 8]
        | .fmtCheck g => r.getLsbD 24 = (g.extractLsb' 0 8 == crc8 [g.extractLsb' 16 8, g.extractLsb' 8 8]) ∧
            r.extractLsb' 16 8 = crc8 [g.extractLsb' 16 8, g.extractLsb' 8 8] ∧
            r.extractLsb' 8 8 = g.extractLsb' 16 8 ∧ r.extractLsb' 0 8 = g.extractLsb' 8 8
        | .ckStat => r.extractLsb' 8 17 = 0 ∧
            r.extractLsb' 0 8 = 0#5 ++ BitVec.ofBool s.ill ++ BitVec.ofBool s.ckfail ++ BitVec.ofBool s.fed
        | .ckClr => r.extractLsb' 0 25 = 0)

/-! ### Reset -/

/-- 70_reset_and_hazards.md R160: the reset values; a reset event from any state gives them and no response; CK.INIT
then CK.CLR from any state gives the same tuple; and the first command after reset executes against it. -/
def Obligations.ResetEventRestoresTheTuple : Prop :=
  (State.reset.crc = 0xFF ∧ State.reset.fed = false ∧ State.reset.ckfail = false ∧ State.reset.ill = false) ∧
  (∀ (s : State) (rest : List HostEvent), s.inputs = .reset :: rest →
    step s = .next { crc := 0xFF, fed := false, ckfail := false, ill := false, inputs := rest, responses := s.responses }) ∧
  (∀ s : State, ∃ t u : State, exec .ckInit s = .next t ∧ exec .ckClr t = .next u ∧ u.SameTuple State.reset) ∧
  (∀ (s : State) (cmd : Word) (i : Instr) (rest : List HostEvent), s.inputs = .reset :: .command cmd :: rest →
    decode cmd = some i → ∃ t : State, step s = .next t ∧
      step t = exec i
        { crc := 0xFF, fed := false, ckfail := false, ill := false, inputs := rest, responses := s.responses })

/-- R161: a command cut by reset, legal or not, has no effect and no response; the unit is as after reset, and what the
host does next goes on from there. A plain reset has no response either. -/
def Obligations.ResetAbandonsCommandInProgress : Prop :=
  (∀ (s : State) (cmd : Word) (rest : List HostEvent), s.inputs = .commandCutByReset cmd :: rest →
    step s = .next { State.reset with inputs := rest, responses := s.responses }) ∧
  (∀ (s t : State) (e : HostEvent) (rest : List HostEvent), s.inputs = e :: rest → e.resets = true →
    step s = .next t → t.responses = s.responses)

/-! ### Error events -/

/-- 60_exceptions.md R141: an illegal word sets ILL, answers 0xFFFF_FFFF and does nothing else, the word being neither
executed nor kept; and the next command word is then accepted as usual. -/
def Obligations.IllegalCommandOnlyRecordsItself : Prop :=
  (∀ (s : State) (cmd : Word) (rest : List HostEvent), decode cmd = none → s.inputs = .command cmd :: rest →
    step s = .next { s with ill := true, inputs := rest, responses := s.responses ++ [0xFFFFFFFF] }) ∧
  (∀ (s : State) (cmd cmd' : Word) (i : Instr) (rest : List HostEvent), decode cmd = none → decode cmd' = some i →
    s.inputs = .command cmd :: .command cmd' :: rest →
    ∃ t : State, step s = .next t ∧
      step t = exec i { s with ill := true, inputs := rest, responses := s.responses ++ [0xFFFFFFFF] })

/-- R142: a mismatching FMT.CHECK completes with its full response, MATCH being 0; CKFAIL then stays set through any
events that are neither CK.CLR (0x8000_0000) nor a reset, and a CK.STAT after them shows it. -/
def Obligations.MismatchIsSurfacedUntilCleared : Prop :=
  ∀ (s : State) (g : Group) (rest : List HostEvent), s.inputs = .command (0x60#8 ++ g) :: rest →
    g.extractLsb' 0 8 ≠ crc8 [g.extractLsb' 16 8, g.extractLsb' 8 8] →
    ∃ (t : State) (r : Word), step s = .next t ∧ t.responses = s.responses ++ [r] ∧ r.getLsbD 24 = false ∧
      r.extractLsb' 16 8 = crc8 [g.extractLsb' 16 8, g.extractLsb' 8 8] ∧ r.extractLsb' 0 16 = g.extractLsb' 8 16 ∧
      t.ckfail = true ∧
      ∀ (es : List HostEvent) (rs : List Word) (u : State),
        (∀ e ∈ es, e.resets = false ∧ e ≠ .command 0x80000000) → Consumes t es rs u →
        u.ckfail = true ∧
        ∃ (v : State) (r' : Word), exec .ckStat u = .next v ∧ v.responses = u.responses ++ [r'] ∧ r'.getLsbD 1 = true

/-- R143: one event of the host raises at most one error event. Where ILL is newly set the word was illegal and nothing
else of the tuple changed; where CKFAIL is newly set the word was a legal FMT.CHECK and nothing else changed; and with
reset asserted neither is set. -/
def Obligations.OneErrorEventAtMostPerCommand : Prop :=
  ∀ (s t : State) (e : HostEvent) (rest : List HostEvent), s.inputs = e :: rest → step s = .next t →
    (s.ill = false → t.ill = true → (∃ cmd : Word, e = .command cmd ∧ decode cmd = none) ∧
      t.crc = s.crc ∧ t.fed = s.fed ∧ t.ckfail = s.ckfail) ∧
    (s.ckfail = false → t.ckfail = true → (∃ (cmd : Word) (g : Group), e = .command cmd ∧ decode cmd = some (.fmtCheck g)) ∧
      t.crc = s.crc ∧ t.fed = s.fed ∧ t.ill = s.ill) ∧
    (e.resets = true → t.ill = false ∧ t.ckfail = false)

/-! ### Who writes each element of the tuple -/

/-- 10_state.md R21: what writes CRC and with which value, over every event, and which events read it. CK.INIT and a reset
write 0xFF and do the same whatever CRC held; CK.FEED and CK.FEED2 read and write it; CK.READ answers it and leaves it;
every other event leaves it and does the same whatever it holds. -/
def Obligations.CrcIsWrittenOnlyByItsCommands : Prop :=
  State.reset.crc = 0xFF ∧
  (∀ (s t : State) (e : HostEvent) (rest : List HostEvent), s.inputs = e :: rest → step s = .next t →
    (e.resets = true ∨ e = .command 0x10000000 →
      t.crc = 0xFF ∧ ∀ c : Byte, step { s with crc := c } = .next t) ∧
    (∀ b : Byte, e = .command (0x200000#24 ++ b) → t.crc = crc8Step s.crc b) ∧
    (∀ w : Half, e = .command (0x3000#16 ++ w) →
      t.crc = crc8Step (crc8Step s.crc (w.extractLsb' 8 8)) (w.extractLsb' 0 8)) ∧
    (e = .command 0x40000000 → t.responses = s.responses ++ [s.crc.setWidth 32]) ∧
    (e.resets = false → e ≠ .command 0x10000000 → (∀ b : Byte, e ≠ .command (0x200000#24 ++ b)) →
      (∀ w : Half, e ≠ .command (0x3000#16 ++ w)) →
      t.crc = s.crc ∧
      (e ≠ .command 0x40000000 → ∀ c : Byte, step { s with crc := c } = .next { t with crc := c })))

/-- R22: FED after any event; with FED = 0, CRC keeps the initial value 0xFF; CK.STAT reads it as bit 0. -/
def Obligations.FedTellsWhetherBytesWentIn : Prop :=
  State.reset.fed = false ∧ (∀ s : State, s.status.getLsbD 0 = s.fed) ∧
  (∀ (s t : State) (e : HostEvent) (rest : List HostEvent), s.inputs = e :: rest → step s = .next t →
    (t.fed = true ↔ (∃ b : Byte, e = .command (0x200000#24 ++ b)) ∨ (∃ w : Half, e = .command (0x3000#16 ++ w)) ∨
      s.fed = true ∧ e.resets = false ∧ e ≠ .command 0x10000000) ∧
    ((s.fed = false → s.crc = 0xFF) → t.fed = false → t.crc = 0xFF))

/-- R23: CKFAIL after any event: set by a mismatching FMT.CHECK, cleared by CK.CLR or reset, kept by all else, a match
among it; CK.STAT reads it as bit 1. -/
def Obligations.CkfailIsStickyUntilClrOrReset : Prop :=
  State.reset.ckfail = false ∧ (∀ s : State, s.status.getLsbD 1 = s.ckfail) ∧
  (∀ (s t : State) (e : HostEvent) (rest : List HostEvent), s.inputs = e :: rest → step s = .next t →
    (t.ckfail = true ↔
      (∃ g : Group, e = .command (0x60#8 ++ g) ∧ g.extractLsb' 0 8 ≠ crc8 [g.extractLsb' 16 8, g.extractLsb' 8 8]) ∨
      s.ckfail = true ∧ e.resets = false ∧ e ≠ .command 0x80000000))

/-- R24: ILL after any event: set by an illegal word, cleared by CK.CLR or reset, kept by all else; CK.STAT reads it as
bit 2. -/
def Obligations.IllIsStickyUntilClrOrReset : Prop :=
  State.reset.ill = false ∧ (∀ s : State, s.status.getLsbD 2 = s.ill) ∧
  (∀ (s t : State) (e : HostEvent) (rest : List HostEvent), s.inputs = e :: rest → step s = .next t →
    (t.ill = true ↔ (∃ cmd : Word, e = .command cmd ∧ decode cmd = none) ∨
      s.ill = true ∧ e.resets = false ∧ e ≠ .command 0x80000000))

/-- R25 and 60_exceptions.md R140: the STATUS layout, its value at reset, and that an error event's code (1 and 2) is
the number of the bit that records it. -/
def Obligations.StatusViewLayout : Prop :=
  (∀ s : State, s.status.getLsbD 0 = s.fed ∧ (∀ e : ErrorEvent, s.status.getLsbD e.code = s.recorded e) ∧
    (∀ n : Nat, 3 ≤ n → s.status.getLsbD n = false)) ∧
  ErrorEvent.checksumMismatch.code = 1 ∧ ErrorEvent.illegalCommand.code = 2 ∧
  (∀ s : State, s.recorded .checksumMismatch = s.ckfail ∧ s.recorded .illegalCommand = s.ill) ∧
  State.reset.status = 0

/-! ### Invariants and what can be observed -/

/-- R22's invariant, FED = 0 implies CRC = 0xFF, is kept by every step from every state that has it. -/
def Obligations.EveryStepKeepsConsistency : Prop :=
  ∀ s t : State, s.Consistent → step s = .next t → t.Consistent

/-- The state after reset has R22's invariant. -/
def Obligations.ResetStateIsConsistent : Prop := State.reset.Consistent

/-- 10_state.md R20 and R28: nothing but the tuple persists. From two states with the same tuple, whatever they answered
before, the same events get the same responses and leave the same tuple. -/
def Obligations.OnlyTheTupleIsObservable : Prop :=
  ∀ (es : List HostEvent) (s1 s2 t1 t2 : State) (rs1 rs2 : List Word), s1.SameTuple s2 →
    Consumes s1 es rs1 t1 → Consumes s2 es rs2 t2 → rs1 = rs2 ∧ t1.SameTuple t2

/-- R27: the response of FMT.PACK and of FMT.CHECK is one word fixed by the operand, the same in every state, and the
only element either writes is CKFAIL, by FMT.CHECK, by a verdict that the operand alone fixes. -/
def Obligations.FmtDependsOnlyOnItsOperand : Prop :=
  (∀ w : Half, ∃ r : Word, ∀ s : State, exec (.fmtPack w) s = .next { s with responses := s.responses ++ [r] }) ∧
  (∀ g : Group, ∃ (r : Word) (bad : Bool), ∀ s : State,
    exec (.fmtCheck g) s = .next { s with ckfail := s.ckfail || bad, responses := s.responses ++ [r] })

/-! ### The checksum -/

/-- 40_checksum.md R80: the step is the XOR and then eight iterations as the pseudocode gives them, and the worked trace
of crc8_step(0xFF, 0xBE). -/
def Obligations.CrcStepFollowsThePseudocode : Prop :=
  (∀ c b : Byte,
    let iter : Byte → Byte := fun r => if r.getLsbD 7 = true then (r <<< 1) ^^^ 0x31 else r <<< 1
    crc8Step c b = iter (iter (iter (iter (iter (iter (iter (iter (c ^^^ b))))))))) ∧
  [crcShifts 0 (0xFF ^^^ 0xBE), crcShifts 1 (0xFF ^^^ 0xBE), crcShifts 2 (0xFF ^^^ 0xBE), crcShifts 3 (0xFF ^^^ 0xBE),
   crcShifts 4 (0xFF ^^^ 0xBE), crcShifts 5 (0xFF ^^^ 0xBE), crcShifts 6 (0xFF ^^^ 0xBE), crcShifts 7 (0xFF ^^^ 0xBE),
   crcShifts 8 (0xFF ^^^ 0xBE)] = [0x41, 0x82, 0x35, 0x6A, 0xD4, 0x99, 0x03, 0x06, 0x0C] ∧
  crc8Step 0xFF 0xBE = 0x0C

/-- R81: the checksum of a non-empty sequence is the fold of the step from 0xFF, its last value being the result; and
the reference vector. (What the fold gives on no bytes is no checksum, U1, and is not stated.) -/
def Obligations.ChecksumIsTheFoldFromInit : Prop :=
  (∀ b : Byte, crc8 [b] = crc8Step 0xFF b) ∧
  (∀ (bs : List Byte) (b : Byte), bs ≠ [] → crc8 (bs ++ [b]) = crc8Step (crc8 bs) b) ∧
  crc8 [0xBE, 0xEF] = 0x92

/-- 40_checksum.md R82, laws 1 to 6, T being crc8_step(0x00, ·). -/
def Obligations.ChecksumAlgebraLaws : Prop :=
  let T : Byte → Byte := crc8Step 0x00
  (∀ c b : Byte, crc8Step c b = T (c ^^^ b)) ∧
  (∀ x y : Byte, T (x ^^^ y) = T x ^^^ T y) ∧ T 0x00 = 0x00 ∧
  Function.Bijective T ∧
  (∀ x : Byte, T x = x ↔ x = 0x00 ∨ x = 0xEF) ∧
  (∀ a b : Byte, crc8 [a, b] = T (T (0xFF ^^^ a) ^^^ b)) ∧
  (∀ a : Byte, Function.Bijective fun b : Byte => crc8 [a, b]) ∧
  (∀ b : Byte, Function.Bijective fun a : Byte => crc8 [a, b]) ∧
  (∀ a b : Byte, (crc8 [a, b] = crc8 [b, a] ↔ T (a ^^^ b) = a ^^^ b) ∧
    (crc8 [a, b] = crc8 [b, a] ↔ a = b ∨ a ^^^ b = 0xEF)) ∧
  (Finset.univ.filter fun p : Byte × Byte => crc8 [p.1, p.2] = crc8 [p.2, p.1]).card = 512

/-- 95_test_vectors.md section 2.1 and 10_state.md R28: the bit-serial step and the 256-entry table are the same
function. -/
def Obligations.TableAndShiftFormsAgree : Prop :=
  ∀ c b : Byte, stepTable[(c ^^^ b).toNat]? = some (crc8Step c b)

/-- 00_scope.md R2: on every non-empty input the checksum is the bit-serial CRC with the six fixed parameters
(polynomial 0x31, initial value 0xFF, no final XOR, no reflection of input or output). -/
def Obligations.ChecksumHasTheFixedParameters : Prop :=
  (Config.ck8Width = 8 ∧ Config.ck8Poly = 0x31 ∧ Config.ck8Init = 0xFF ∧ Config.ck8XorOut = 0x00 ∧
    Config.ck8RefIn = false ∧ Config.ck8RefOut = false) ∧
  ∀ bs : List Byte, bs ≠ [] →
    crc8 bs = serialCrc Config.ck8Poly Config.ck8Init Config.ck8XorOut Config.ck8RefIn Config.ck8RefOut bs

/-! ### The commands: encoding, whole next state, corner cases and examples of each rule -/

/-- 40_checksum.md R83, CK.INIT. -/
def Obligations.InitStartsNewChecksum : Prop :=
  decode 0x10000000 = some .ckInit ∧
  (∀ s : State, exec .ckInit s =
    .next { s with crc := 0xFF, fed := false, responses := s.responses ++ [0x00000000] }) ∧
  (∀ s : State, s.crc = 0xFF → s.fed = false →
    exec .ckInit s = .next { s with responses := s.responses ++ [0x00000000] }) ∧
  (∀ s t : State, exec .ckInit s = .next t →
    exec .ckInit t = .next { t with responses := t.responses ++ [0x00000000] })

/-- R84, CK.FEED. -/
def Obligations.FeedAccumulatesOneByte : Prop :=
  (∀ b : Byte, decode (0x200000#24 ++ b) = some (.ckFeed b)) ∧
  (∀ (b : Byte) (s : State), exec (.ckFeed b) s =
    .next { s with
      crc := crc8Step s.crc b
      fed := true
      responses := s.responses ++ [(crc8Step s.crc b).setWidth 32] }) ∧
  (∀ s : State, exec (.ckFeed s.crc) s =
    .next { s with crc := 0x00, fed := true, responses := s.responses ++ [0x00000000] }) ∧
  crc8Step 0xFF 0x00 = 0xAC ∧ crc8Step 0xFF 0xFF = 0x00 ∧ crc8Step 0xFF 0xBE = 0x0C ∧ crc8Step 0x0C 0xEF = 0x92

/-- R85, CK.FEED2: high byte first, one response; the same as two CK.FEED but for their two responses. -/
def Obligations.Feed2AccumulatesWordBigEndian : Prop :=
  (∀ w : Half, decode (0x3000#16 ++ w) = some (.ckFeed2 w)) ∧
  (∀ (w : Half) (s : State), exec (.ckFeed2 w) s =
    .next { s with
      crc := crc8Step (crc8Step s.crc (w.extractLsb' 8 8)) (w.extractLsb' 0 8)
      fed := true
      responses := s.responses ++ [(crc8Step (crc8Step s.crc (w.extractLsb' 8 8)) (w.extractLsb' 0 8)).setWidth 32] }) ∧
  (∀ (w : Half) (s t u : State), exec (.ckFeed (w.extractLsb' 8 8)) s = .next t →
    exec (.ckFeed (w.extractLsb' 0 8)) t = .next u →
    exec (.ckFeed2 w) s = .next { u with responses := s.responses ++ [u.crc.setWidth 32] }) ∧
  (∀ s : State, s.crc = 0xFF →
    exec (.ckFeed2 0xFF00) s = .next { s with crc := 0x00, fed := true, responses := s.responses ++ [0x00000000] } ∧
    exec (.ckFeed2 0xFFEF) s = .next { s with crc := 0xEF, fed := true, responses := s.responses ++ [0x000000EF] } ∧
    exec (.ckFeed2 0xBEEF) s = .next { s with crc := 0x92, fed := true, responses := s.responses ++ [0x00000092] })

/-- R86, CK.READ. With FED = 0 in a state that keeps R22's invariant the response is 0x0000_00FF. -/
def Obligations.ReadReturnsRunningRegister : Prop :=
  decode 0x40000000 = some .ckRead ∧
  (∀ s : State, exec .ckRead s = .next { s with responses := s.responses ++ [s.crc.setWidth 32] }) ∧
  (∀ s : State, s.Consistent → s.fed = false →
    exec .ckRead s = .next { s with responses := s.responses ++ [0x000000FF] }) ∧
  (∀ s t : State, exec .ckRead s = .next t →
    exec .ckRead t = .next { t with responses := t.responses ++ [s.crc.setWidth 32] })

/-- 41_frame.md R100, FMT.PACK, with a payload of several words as one command per word, in payload order. -/
def Obligations.PackBuildsCheckedGroup : Prop :=
  (∀ w : Half, decode (0x5000#16 ++ w) = some (.fmtPack w)) ∧
  (∀ (w : Half) (s : State), exec (.fmtPack w) s =
    .next { s with
      responses := s.responses ++
        [(0x00#8 ++ w.extractLsb' 8 8 ++ w.extractLsb' 0 8 ++ crc8 [w.extractLsb' 8 8, w.extractLsb' 0 8] : Word)] }) ∧
  (∀ s : State,
    exec (.fmtPack 0x0000) s = .next { s with responses := s.responses ++ [0x00000081] } ∧
    exec (.fmtPack 0xFFFF) s = .next { s with responses := s.responses ++ [0x00FFFFAC] } ∧
    exec (.fmtPack 0xFF00) s = .next { s with responses := s.responses ++ [0x00FF0000] } ∧
    exec (.fmtPack 0xBEEF) s = .next { s with responses := s.responses ++ [0x00BEEF92] }) ∧
  (∀ (ws : List Half) (s : State) (rest : List HostEvent),
    s.inputs = ws.map (fun w => .command (0x5000#16 ++ w)) ++ rest →
    Consumes s (ws.map fun w => .command (0x5000#16 ++ w))
      (ws.map fun w =>
        (0x00#8 ++ w.extractLsb' 8 8 ++ w.extractLsb' 0 8 ++ crc8 [w.extractLsb' 8 8, w.extractLsb' 0 8] : Word))
      { s with
        inputs := rest
        responses := s.responses ++ ws.map fun w =>
          (0x00#8 ++ w.extractLsb' 8 8 ++ w.extractLsb' 0 8 ++ crc8 [w.extractLsb' 8 8, w.extractLsb' 0 8] : Word) })

/-- R101, FMT.CHECK: the response and CKFAIL for every group, CKFAIL written only on a mismatch, nothing else written. -/
def Obligations.CheckVerifiesReceivedGroup : Prop :=
  (∀ g : Group, decode (0x60#8 ++ g) = some (.fmtCheck g)) ∧
  (∀ (g : Group) (s : State), exec (.fmtCheck g) s =
    .next { s with
      ckfail := if g.extractLsb' 0 8 = crc8 [g.extractLsb' 16 8, g.extractLsb' 8 8] then s.ckfail else true
      responses := s.responses ++
        [(0#7 ++ BitVec.ofBool (g.extractLsb' 0 8 == crc8 [g.extractLsb' 16 8, g.extractLsb' 8 8]) ++
          crc8 [g.extractLsb' 16 8, g.extractLsb' 8 8] ++ g.extractLsb' 16 8 ++ g.extractLsb' 8 8 : Word)] }) ∧
  (∀ s : State,
    exec (.fmtCheck 0x000000) s = .next { s with ckfail := true, responses := s.responses ++ [0x00810000] } ∧
    exec (.fmtCheck 0xFF0000) s = .next { s with responses := s.responses ++ [0x0100FF00] } ∧
    exec (.fmtCheck 0xBEEF92) s = .next { s with responses := s.responses ++ [0x0192BEEF] } ∧
    exec (.fmtCheck 0xBEEF93) s = .next { s with ckfail := true, responses := s.responses ++ [0x0092BEEF] })

/-- 42_status.md R120, CK.STAT. -/
def Obligations.StatReadsStatusWithoutClearing : Prop :=
  decode 0x70000000 = some .ckStat ∧
  (∀ s : State, exec .ckStat s =
    .next { s with
      responses := s.responses ++
        [(BitVec.ofBool s.ill ++ BitVec.ofBool s.ckfail ++ BitVec.ofBool s.fed).setWidth 32] }) ∧
  exec .ckStat State.reset = .next { State.reset with responses := [0x00000000] } ∧
  (∀ (s : State) (cmd : Word) (rest : List HostEvent), decode cmd = none →
    s.inputs = .command cmd :: .command 0x70000000 :: rest →
    ∃ (t u : State) (r : Word), step s = .next t ∧ step t = .next u ∧
      u.responses = s.responses ++ [0xFFFFFFFF, r] ∧ r.getLsbD 2 = true)

/-- R121, CK.CLR. -/
def Obligations.ClrClearsOnlyStickyFlags : Prop :=
  decode 0x80000000 = some .ckClr ∧
  (∀ s : State, exec .ckClr s =
    .next { s with ckfail := false, ill := false, responses := s.responses ++ [0x00000000] }) ∧
  (∀ s : State, s.ckfail = false → s.ill = false →
    exec .ckClr s = .next { s with responses := s.responses ++ [0x00000000] })

/-! ### Sequences of commands -/

/-- 40_checksum.md R87: CK.INIT, then any command words (legal or illegal) that are not CK.INIT and feed at least one
byte in all: CRC is the checksum of the bytes fed and FED is 1. -/
def Obligations.AccumulatedChecksumIsOfAllBytesFed : Prop :=
  ∀ (s : State) (cmds : List Word) (rest : List HostEvent),
    s.inputs = .command 0x10000000 :: cmds.map .command ++ rest →
    (∀ cmd ∈ cmds, cmd ≠ 0x10000000) → cmds.flatMap bytesFed ≠ [] →
    ∃ (rs : List Word) (t : State), Consumes s (.command 0x10000000 :: cmds.map .command) rs t ∧
      t.crc = crc8 (cmds.flatMap bytesFed) ∧ t.fed = true

/-- 41_frame.md R102: FMT.CHECK of the group FMT.PACK built gives MATCH = 1 and the word back, and CKFAIL is as it
was. -/
def Obligations.CheckOfPackRoundTrips : Prop :=
  ∀ (w : Half) (s : State), ∃ (t u : State) (r r' : Word),
    exec (.fmtPack w) s = .next t ∧ t.responses = s.responses ++ [r] ∧
    exec (.fmtCheck (r.extractLsb' 0 24)) t = .next u ∧ u.responses = t.responses ++ [r'] ∧
    r'.getLsbD 24 = true ∧ r'.extractLsb' 0 16 = w ∧ u.ckfail = s.ckfail

/-- R103: any change of exactly one byte of a valid group is found: MATCH is 0, with C unchanged when the checksum byte
changed and C changed when a data byte did; and two changes of two bytes that are not found. -/
def Obligations.SingleByteCorruptionIsDetected : Prop :=
  (∀ a b : Byte,
    CheckAnswers (a ++ b ++ crc8 [a, b]) true (crc8 [a, b]) ∧
    (∀ k : Byte, k ≠ crc8 [a, b] → CheckAnswers (a ++ b ++ k) false (crc8 [a, b])) ∧
    (∀ a' : Byte, a' ≠ a → ∃ c : Byte, c ≠ crc8 [a, b] ∧ CheckAnswers (a' ++ b ++ crc8 [a, b]) false c) ∧
    (∀ b' : Byte, b' ≠ b → ∃ c : Byte, c ≠ crc8 [a, b] ∧ CheckAnswers (a ++ b' ++ crc8 [a, b]) false c)) ∧
  CheckAnswers 0xBEEF92 true 0x92 ∧ CheckAnswers 0x004F92 true 0x92 ∧ CheckAnswers 0xBE007D true 0x7D

/-- R104: the residue of a valid group is 0x00; and feeding a group's three bytes after CK.INIT leaves CRC = 0x00
exactly when FMT.CHECK of that group would give MATCH = 1. -/
def Obligations.ResidueIsZeroExactlyForValidGroups : Prop :=
  (∀ b0 b1 : Byte, crc8 [b0, b1, crc8 [b0, b1]] = 0x00) ∧
  (∀ (s : State) (b0 b1 k : Byte) (rest : List HostEvent),
    s.inputs = [.command 0x10000000, .command (0x200000#24 ++ b0), .command (0x200000#24 ++ b1),
      .command (0x200000#24 ++ k)] ++ rest →
    ∃ (rs : List Word) (t u : State) (r : Word),
      Consumes s [.command 0x10000000, .command (0x200000#24 ++ b0), .command (0x200000#24 ++ b1),
        .command (0x200000#24 ++ k)] rs t ∧
      exec (.fmtCheck (b0 ++ b1 ++ k)) t = .next u ∧ u.responses = t.responses ++ [r] ∧
      (t.crc = 0x00 ↔ r.getLsbD 24 = true))

/-- R105: CK.CLR, one FMT.CHECK per group, CK.STAT: the last response's bit 1 is 0 exactly when every group matched. A
response with MATCH = 0 leaves CKFAIL already 1. Without the leading CK.CLR a 0 still means that every group matched. -/
def Obligations.PayloadIsValidExactlyWhenCkfailClear : Prop :=
  (∀ (s : State) (gs : List Group) (rest : List HostEvent),
    s.inputs = .command 0x80000000 :: gs.map (fun g => .command (0x60#8 ++ g)) ++ .command 0x70000000 :: rest →
    ∃ (rs : List Word) (r : Word) (t : State),
      Consumes s (.command 0x80000000 :: gs.map (fun g => .command (0x60#8 ++ g)) ++ [.command 0x70000000])
        (rs ++ [r]) t ∧
      (r.getLsbD 1 = false ↔ ∀ g ∈ gs, g.extractLsb' 0 8 = crc8 [g.extractLsb' 16 8, g.extractLsb' 8 8])) ∧
  (∀ (s t : State) (g : Group) (r : Word), exec (.fmtCheck g) s = .next t → t.responses = s.responses ++ [r] →
    r.getLsbD 24 = false → t.ckfail = true) ∧
  (∀ (s : State) (gs : List Group) (rest : List HostEvent),
    s.inputs = gs.map (fun g => .command (0x60#8 ++ g)) ++ .command 0x70000000 :: rest →
    ∃ (rs : List Word) (r : Word) (t : State),
      Consumes s (gs.map (fun g => .command (0x60#8 ++ g)) ++ [.command 0x70000000]) (rs ++ [r]) t ∧
      (r.getLsbD 1 = false → ∀ g ∈ gs, g.extractLsb' 0 8 = crc8 [g.extractLsb' 16 8, g.extractLsb' 8 8]))

/-- R106 and 20_memory.md R44: with one FMT.CHECK per group of a payload, in payload order, the n-th response's [15:0]
is the big-endian word of payload bytes 3n and 3n + 1, and its MATCH says whether byte 3n + 2 is their checksum. -/
def Obligations.PayloadWordsAreReadFromCheckResponses : Prop :=
  ∀ (s : State) (bs : List Byte) (gs : List Group) (rest : List HostEvent), groupsOfPayload bs = some gs →
    s.inputs = gs.map (fun g => .command (0x60#8 ++ g)) ++ rest →
    ∃ (rs : List Word) (t : State), Consumes s (gs.map fun g => .command (0x60#8 ++ g)) rs t ∧
      bs.length = 3 * rs.length ∧
      ∀ (n : Nat) (b0 b1 k : Byte), bs[3 * n]? = some b0 → bs[3 * n + 1]? = some b1 → bs[3 * n + 2]? = some k →
        ∃ r : Word, rs[n]? = some r ∧ r.extractLsb' 0 16 = b0 ++ b1 ∧ r.getLsbD 24 = (k == crc8 [b0, b1])

/-- 70_reset_and_hazards.md R164: of the 2^24 groups exactly 2^16 pass FMT.CHECK, so one in 256 does. -/
def Obligations.OneGroupIn256Matches : Prop :=
  (∀ (g : Group) (s : State), ∃ (t : State) (r : Word), exec (.fmtCheck g) s = .next t ∧
    t.responses = s.responses ++ [r] ∧ r.getLsbD 24 = groupMatches g) ∧
  (Finset.univ.filter fun g : Group => groupMatches g = true).card = 65536

/-! ### Payloads and the assembler -/

/-- 20_memory.md R42, R44 and R47: the payload of a list of words has 3 bytes per word and splits back into their
groups, each valid and each carrying its word; and a byte list splits into groups exactly when its length is a multiple
of 3. -/
def Obligations.PayloadsSplitIntoTheirGroups : Prop :=
  (∀ ws : List Half, (payloadOfWords ws).length = Config.groupLength * ws.length ∧
    groupsOfPayload (payloadOfWords ws) = some (ws.map groupOfWord)) ∧
  (∀ w : Half, groupMatches (groupOfWord w) = true ∧ wordOfGroup (groupOfWord w) = w ∧
    groupBytes (groupOfWord w) =
      [w.extractLsb' 8 8, w.extractLsb' 0 8, crc8 [w.extractLsb' 8 8, w.extractLsb' 0 8]]) ∧
  (∀ bs : List Byte, (groupsOfPayload bs).isSome = true ↔ bs.length % 3 = 0) ∧
  (∀ (bs : List Byte) (gs : List Group), groupsOfPayload bs = some gs → gs.flatMap groupBytes = bs)

/-- 30_encoding.md R68: the assembler rejects exactly the imm8, imm16 and imm24 that do not fit, never truncates one, and
gives the word that decodes to the statement's command; `.word` gives any 32-bit word as it is. That a `.word` immediate
of 2^32 or more is rejected is the model's choice (assumption log 10): R68's list of what is rejected has no imm32. -/
def Obligations.AssemblerNeverTruncates : Prop :=
  (∀ n : Nat, (assembleStatement (.ckFeed n) = none ↔ n > 0xFF) ∧ (assembleStatement (.ckFeed2 n) = none ↔ n > 0xFFFF) ∧
    (assembleStatement (.fmtPack n) = none ↔ n > 0xFFFF) ∧ (assembleStatement (.fmtCheck n) = none ↔ n > 0xFFFFFF)) ∧
  (∀ (n : Nat) (cmd : Word),
    (assembleStatement (.ckFeed n) = some cmd → ∃ b : Byte, b.toNat = n ∧ decode cmd = some (.ckFeed b)) ∧
    (assembleStatement (.ckFeed2 n) = some cmd → ∃ w : Half, w.toNat = n ∧ decode cmd = some (.ckFeed2 w)) ∧
    (assembleStatement (.fmtPack n) = some cmd → ∃ w : Half, w.toNat = n ∧ decode cmd = some (.fmtPack w)) ∧
    (assembleStatement (.fmtCheck n) = some cmd → ∃ g : Group, g.toNat = n ∧ decode cmd = some (.fmtCheck g))) ∧
  (∀ cmd : Word, assembleStatement (.word cmd.toNat) = some cmd) ∧
  (∀ n : Nat, 2 ^ 32 ≤ n → assembleStatement (.word n) = none) ∧
  assembleStatement .ckInit = some 0x10000000 ∧ assembleStatement .ckRead = some 0x40000000 ∧
  assembleStatement .ckStat = some 0x70000000 ∧ assembleStatement .ckClr = some 0x80000000

/-- R69: what the three pseudo-instructions stand for, when they are accepted, and the results of issuing their words
from any state. -/
def Obligations.PseudoInstructionsGiveTheirResults : Prop :=
  (∀ n : Nat, expandPseudo (.ckSumw n) = [.ckInit, .ckFeed2 n]) ∧
  (∀ (n : Nat) (ns : List Nat), expandPseudo (.fmtPackn n ns) = (n :: ns).map .fmtPack ∧
    expandPseudo (.fmtCheckn n ns) = [.ckClr] ++ (n :: ns).map .fmtCheck ++ [.ckStat]) ∧
  (∀ p : Pseudo, (∃ cmds : List Word, assemblePseudo p = some cmds) ↔ p.wellFormed = true) ∧
  (∀ (w : Half) (cmds : List Word) (s : State) (rest : List HostEvent),
    assemblePseudo (.ckSumw w.toNat) = some cmds → s.inputs = cmds.map .command ++ rest →
    ∃ (r1 r2 : Word) (t : State), Consumes s (cmds.map .command) [r1, r2] t ∧
      r2.extractLsb' 0 8 = crc8 [w.extractLsb' 8 8, w.extractLsb' 0 8]) ∧
  (∀ (w : Half) (ws : List Half) (cmds : List Word) (s : State) (rest : List HostEvent),
    assemblePseudo (.fmtPackn w.toNat (ws.map BitVec.toNat)) = some cmds → s.inputs = cmds.map .command ++ rest →
    ∃ (rs : List Word) (t : State), Consumes s (cmds.map .command) rs t ∧
      rs.flatMap (fun r => [r.extractLsb' 16 8, r.extractLsb' 8 8, r.extractLsb' 0 8]) = payloadOfWords (w :: ws) ∧
      ((payloadOfWords (w :: ws)).length = 3 ∨ (payloadOfWords (w :: ws)).length = 6 ∨
        (payloadOfWords (w :: ws)).length = 9)) ∧
  (∀ (g : Group) (gs : List Group) (cmds : List Word) (s : State) (rest : List HostEvent),
    assemblePseudo (.fmtCheckn g.toNat (gs.map BitVec.toNat)) = some cmds → s.inputs = cmds.map .command ++ rest →
    ∃ (rs : List Word) (r : Word) (t : State), Consumes s (cmds.map .command) (rs ++ [r]) t ∧ t.ill = false ∧
      (r.getLsbD 1 = false ↔ ∀ g' ∈ g :: gs, g'.extractLsb' 0 8 = crc8 [g'.extractLsb' 16 8, g'.extractLsb' 8 8]))
end

