-- ==== Sys2Proof/Laws/State.lean ====
section
/-! SUPPORT. One lemma per field and update of State, so that no proof unfolds a record update. -/

namespace Sys2Proof.Machine

@[simp] theorem State.setCrc_crc (s : State) (v : Byte) : (s.setCrc v).crc = v := rfl
@[simp] theorem State.setCrc_fed (s : State) (v : Byte) : (s.setCrc v).fed = s.fed := rfl
@[simp] theorem State.setCrc_ckfail (s : State) (v : Byte) : (s.setCrc v).ckfail = s.ckfail := rfl
@[simp] theorem State.setCrc_ill (s : State) (v : Byte) : (s.setCrc v).ill = s.ill := rfl
@[simp] theorem State.setCrc_inputs (s : State) (v : Byte) : (s.setCrc v).inputs = s.inputs := rfl
@[simp] theorem State.setCrc_responses (s : State) (v : Byte) : (s.setCrc v).responses = s.responses := rfl

@[simp] theorem State.setFed_crc (s : State) (v : Bool) : (s.setFed v).crc = s.crc := rfl
@[simp] theorem State.setFed_fed (s : State) (v : Bool) : (s.setFed v).fed = v := rfl
@[simp] theorem State.setFed_ckfail (s : State) (v : Bool) : (s.setFed v).ckfail = s.ckfail := rfl
@[simp] theorem State.setFed_ill (s : State) (v : Bool) : (s.setFed v).ill = s.ill := rfl
@[simp] theorem State.setFed_inputs (s : State) (v : Bool) : (s.setFed v).inputs = s.inputs := rfl
@[simp] theorem State.setFed_responses (s : State) (v : Bool) : (s.setFed v).responses = s.responses := rfl

@[simp] theorem State.setCkfail_crc (s : State) (v : Bool) : (s.setCkfail v).crc = s.crc := rfl
@[simp] theorem State.setCkfail_fed (s : State) (v : Bool) : (s.setCkfail v).fed = s.fed := rfl
@[simp] theorem State.setCkfail_ckfail (s : State) (v : Bool) : (s.setCkfail v).ckfail = v := rfl
@[simp] theorem State.setCkfail_ill (s : State) (v : Bool) : (s.setCkfail v).ill = s.ill := rfl
@[simp] theorem State.setCkfail_inputs (s : State) (v : Bool) : (s.setCkfail v).inputs = s.inputs := rfl
@[simp] theorem State.setCkfail_responses (s : State) (v : Bool) : (s.setCkfail v).responses = s.responses := rfl

@[simp] theorem State.setIll_crc (s : State) (v : Bool) : (s.setIll v).crc = s.crc := rfl
@[simp] theorem State.setIll_fed (s : State) (v : Bool) : (s.setIll v).fed = s.fed := rfl
@[simp] theorem State.setIll_ckfail (s : State) (v : Bool) : (s.setIll v).ckfail = s.ckfail := rfl
@[simp] theorem State.setIll_ill (s : State) (v : Bool) : (s.setIll v).ill = v := rfl
@[simp] theorem State.setIll_inputs (s : State) (v : Bool) : (s.setIll v).inputs = s.inputs := rfl
@[simp] theorem State.setIll_responses (s : State) (v : Bool) : (s.setIll v).responses = s.responses := rfl

@[simp] theorem State.setInputs_crc (s : State) (v : List HostEvent) : (s.setInputs v).crc = s.crc := rfl
@[simp] theorem State.setInputs_fed (s : State) (v : List HostEvent) : (s.setInputs v).fed = s.fed := rfl
@[simp] theorem State.setInputs_ckfail (s : State) (v : List HostEvent) : (s.setInputs v).ckfail = s.ckfail := rfl
@[simp] theorem State.setInputs_ill (s : State) (v : List HostEvent) : (s.setInputs v).ill = s.ill := rfl
@[simp] theorem State.setInputs_inputs (s : State) (v : List HostEvent) : (s.setInputs v).inputs = v := rfl
@[simp] theorem State.setInputs_responses (s : State) (v : List HostEvent) : (s.setInputs v).responses = s.responses := rfl

@[simp] theorem State.respond_crc (s : State) (w : Word) : (s.respond w).crc = s.crc := rfl
@[simp] theorem State.respond_fed (s : State) (w : Word) : (s.respond w).fed = s.fed := rfl
@[simp] theorem State.respond_ckfail (s : State) (w : Word) : (s.respond w).ckfail = s.ckfail := rfl
@[simp] theorem State.respond_ill (s : State) (w : Word) : (s.respond w).ill = s.ill := rfl
@[simp] theorem State.respond_inputs (s : State) (w : Word) : (s.respond w).inputs = s.inputs := rfl
@[simp] theorem State.respond_responses (s : State) (w : Word) : (s.respond w).responses = s.responses ++ [w] := rfl

@[simp] theorem State.raiseIllegalCommand_crc (s : State) : (s.raiseIllegalCommand).crc = s.crc := rfl
@[simp] theorem State.raiseIllegalCommand_fed (s : State) : (s.raiseIllegalCommand).fed = s.fed := rfl
@[simp] theorem State.raiseIllegalCommand_ckfail (s : State) : (s.raiseIllegalCommand).ckfail = s.ckfail := rfl
@[simp] theorem State.raiseIllegalCommand_ill (s : State) : (s.raiseIllegalCommand).ill = true := rfl
@[simp] theorem State.raiseIllegalCommand_inputs (s : State) : (s.raiseIllegalCommand).inputs = s.inputs := rfl
@[simp] theorem State.raiseIllegalCommand_responses (s : State) : (s.raiseIllegalCommand).responses = s.responses ++ [illegalResponse] := rfl

@[simp] theorem State.clearErrors_crc (s : State) : (s.clearErrors).crc = s.crc := rfl
@[simp] theorem State.clearErrors_fed (s : State) : (s.clearErrors).fed = s.fed := rfl
@[simp] theorem State.clearErrors_ckfail (s : State) : (s.clearErrors).ckfail = false := rfl
@[simp] theorem State.clearErrors_ill (s : State) : (s.clearErrors).ill = false := rfl
@[simp] theorem State.clearErrors_inputs (s : State) : (s.clearErrors).inputs = s.inputs := rfl
@[simp] theorem State.clearErrors_responses (s : State) : (s.clearErrors).responses = s.responses := rfl

@[simp] theorem State.applyReset_crc (s : State) : (s.applyReset).crc = 0xFF := rfl
@[simp] theorem State.applyReset_fed (s : State) : (s.applyReset).fed = false := rfl
@[simp] theorem State.applyReset_ckfail (s : State) : (s.applyReset).ckfail = false := rfl
@[simp] theorem State.applyReset_ill (s : State) : (s.applyReset).ill = false := rfl
@[simp] theorem State.applyReset_inputs (s : State) : (s.applyReset).inputs = s.inputs := rfl
@[simp] theorem State.applyReset_responses (s : State) : (s.applyReset).responses = s.responses := rfl

@[simp] theorem State.startChecksum_crc (s : State) : (s.startChecksum).crc = 0xFF := rfl
@[simp] theorem State.startChecksum_fed (s : State) : (s.startChecksum).fed = false := rfl
@[simp] theorem State.startChecksum_ckfail (s : State) : (s.startChecksum).ckfail = s.ckfail := rfl
@[simp] theorem State.startChecksum_ill (s : State) : (s.startChecksum).ill = s.ill := rfl
@[simp] theorem State.startChecksum_inputs (s : State) : (s.startChecksum).inputs = s.inputs := rfl
@[simp] theorem State.startChecksum_responses (s : State) : (s.startChecksum).responses = s.responses := rfl

@[simp] theorem State.accumulate_crc (s : State) (bs : List Byte) : (s.accumulate bs).crc = crcFrom s.crc bs := rfl
@[simp] theorem State.accumulate_fed (s : State) (bs : List Byte) : (s.accumulate bs).fed = true := rfl
@[simp] theorem State.accumulate_ckfail (s : State) (bs : List Byte) : (s.accumulate bs).ckfail = s.ckfail := rfl
@[simp] theorem State.accumulate_ill (s : State) (bs : List Byte) : (s.accumulate bs).ill = s.ill := rfl
@[simp] theorem State.accumulate_inputs (s : State) (bs : List Byte) : (s.accumulate bs).inputs = s.inputs := rfl
@[simp] theorem State.accumulate_responses (s : State) (bs : List Byte) : (s.accumulate bs).responses = s.responses := rfl

@[simp] theorem State.recordCheck_crc (s : State) (ok : Bool) : (s.recordCheck ok).crc = s.crc := by
  cases ok <;> rfl
@[simp] theorem State.recordCheck_fed (s : State) (ok : Bool) : (s.recordCheck ok).fed = s.fed := by
  cases ok <;> rfl
@[simp] theorem State.recordCheck_ckfail (s : State) (ok : Bool) :
    (s.recordCheck ok).ckfail = (s.ckfail || !ok) := by
  cases ok <;> simp [State.recordCheck]
@[simp] theorem State.recordCheck_ill (s : State) (ok : Bool) : (s.recordCheck ok).ill = s.ill := by
  cases ok <;> rfl
@[simp] theorem State.recordCheck_inputs (s : State) (ok : Bool) : (s.recordCheck ok).inputs = s.inputs := by
  cases ok <;> rfl
@[simp] theorem State.recordCheck_responses (s : State) (ok : Bool) : (s.recordCheck ok).responses = s.responses := by
  cases ok <;> rfl

/-- Two states with equal fields are equal. -/
theorem State.eq_of_fields {s t : State} (hc : s.crc = t.crc) (hf : s.fed = t.fed) (hk : s.ckfail = t.ckfail)
    (hi : s.ill = t.ill) (hin : s.inputs = t.inputs) (hr : s.responses = t.responses) : s = t := by
  cases s; cases t; simp_all

@[simp] theorem State.reset_crc : State.reset.crc = 0xFF := rfl
@[simp] theorem State.reset_fed : State.reset.fed = false := rfl
@[simp] theorem State.reset_ckfail : State.reset.ckfail = false := rfl
@[simp] theorem State.reset_ill : State.reset.ill = false := rfl
@[simp] theorem State.reset_inputs : State.reset.inputs = [] := rfl
@[simp] theorem State.reset_responses : State.reset.responses = [] := rfl

end Sys2Proof.Machine
end

