-- ==== Sys2Proof/Laws/Checksum.lean ====
section
/-! SUPPORT. The checksum operations: one spec lemma each, and the linearity of one shift iteration. -/

namespace Sys2Proof.Machine

@[simp] theorem crcFrom_nil (c : Byte) : crcFrom c [] = c := rfl

@[simp] theorem crcFrom_cons (c b : Byte) (bs : List Byte) :
    crcFrom c (b :: bs) = crcFrom (crc8Step c b) bs := rfl

theorem crcFrom_append (c : Byte) (as bs : List Byte) :
    crcFrom c (as ++ bs) = crcFrom (crcFrom c as) bs := by
  simp [crcFrom, List.foldl_append]

theorem crc8_eq_crcFrom (bs : List Byte) : crc8 bs = crcFrom 0xFF bs := rfl

theorem crc8_pair (a b : Byte) : crc8 [a, b] = crc8Step (crc8Step 0xFF a) b := rfl

theorem crc8Step_eq_crcShifts (c b : Byte) : crc8Step c b = crcShifts 8 (c ^^^ b) := rfl

/-- One shift iteration is linear over GF(2). -/
theorem crcShift_xor (x y : Byte) : crcShift (x ^^^ y) = crcShift x ^^^ crcShift y := by
  unfold crcShift
  rw [BitVec.getLsbD_xor, BitVec.shiftLeft_xor_distrib]
  cases x.getLsbD 7 <;> cases y.getLsbD 7 <;> ext i h <;> simp only [Bool.xor_false, Bool.xor_true,
    Bool.not_true, Bool.not_false, Bool.false_eq_true, if_true, if_false, BitVec.getElem_xor] <;> grind

theorem crcShifts_xor (n : Nat) (x y : Byte) : crcShifts n (x ^^^ y) = crcShifts n x ^^^ crcShifts n y := by
  induction n generalizing x y with
  | zero => rfl
  | succ n ih => simp [crcShifts, crcShift_xor, ih]

@[simp] theorem crcShifts_zero_byte (n : Nat) : crcShifts n 0#8 = 0#8 := by
  induction n with
  | zero => rfl
  | succ n ih => simpa [crcShifts, crcShift] using ih

end Sys2Proof.Machine
end

