-- ==== Sys2Proof/Laws/Decode.lean ====
section
/-! SUPPORT. The fields of a command word, of an encoded instruction, and the ways a word can decode. -/

namespace Sys2Proof

theorem getLsbD_commandWord (op : BitVec 4) (opd : Group) (i : Nat) :
    (commandWord op opd).getLsbD i =
      if i < 24 then opd.getLsbD i else if i < 28 then false else op.getLsbD (i - 28) := by
  have h1 : (commandWord op opd).getLsbD i = if i < 24 then opd.getLsbD i else (op ++ 0#4).getLsbD (i - 24) :=
    BitVec.getLsbD_append (x := op ++ 0#4) (y := opd)
  rw [h1, BitVec.getLsbD_append]
  by_cases h24 : i < 24
  · rw [if_pos h24, if_pos h24]
  · rw [if_neg h24, if_neg h24]
    by_cases h28 : i < 28
    · rw [if_pos (by omega), if_pos h28]; simp
    · rw [if_neg (by omega), if_neg h28, Nat.sub_sub]

@[simp] theorem opField_commandWord (op : BitVec 4) (opd : Group) : opField (commandWord op opd) = op := by
  apply BitVec.eq_of_getLsbD_eq
  intro i h
  have h1 : ¬ 28 + i < 24 := by omega
  simp [opField, getLsbD_commandWord, h, h1]

@[simp] theorem rsvField_commandWord (op : BitVec 4) (opd : Group) : rsvField (commandWord op opd) = 0 := by
  apply BitVec.eq_of_getLsbD_eq
  intro i h
  have h1 : 24 + i < 28 := by omega
  simp [rsvField, getLsbD_commandWord, h1]

@[simp] theorem opdField_commandWord (op : BitVec 4) (opd : Group) : opdField (commandWord op opd) = opd := by
  apply BitVec.eq_of_getLsbD_eq
  intro i h
  simp [opdField, getLsbD_commandWord, h]

/-- A word with RSV = 0 is the command word of its OP and OPD. -/
theorem commandWord_fields (cmd : Word) (h : rsvField cmd = 0) : commandWord (opField cmd) (opdField cmd) = cmd := by
  apply BitVec.eq_of_getLsbD_eq
  intro i hi
  rw [getLsbD_commandWord]
  by_cases h24 : i < 24
  · simp [opdField, h24]
  · by_cases h28 : i < 28
    · have h1 : (rsvField cmd).getLsbD (i - 24) = false := by rw [h]; simp
      have h2 : i - 24 < 4 := by omega
      have h3 : 24 + (i - 24) = i := by omega
      simp only [rsvField, BitVec.getLsbD_extractLsb', h2, h3, decide_true, Bool.true_and] at h1
      simp [h24, h28, h1]
    · have h2 : i - 28 < 4 := by omega
      have h3 : 28 + (i - 28) = i := by omega
      simp [opField, h24, h28, h2, h3]

/-- The operand bits of a word are those of its OPD field. -/
theorem imm8Field_eq (cmd : Word) : imm8Field cmd = (opdField cmd).extractLsb' 0 8 := by
  apply BitVec.eq_of_getLsbD_eq
  intro i h
  simp [imm8Field, opdField, h]

theorem imm16Field_eq (cmd : Word) : imm16Field cmd = (opdField cmd).extractLsb' 0 16 := by
  apply BitVec.eq_of_getLsbD_eq
  intro i h
  simp [imm16Field, opdField, h]

theorem aboveImm8_eq (cmd : Word) : aboveImm8 cmd = (opdField cmd).extractLsb' 8 16 := by
  apply BitVec.eq_of_getLsbD_eq
  intro i h
  simp [aboveImm8, opdField, h]

theorem aboveImm16_eq (cmd : Word) : aboveImm16 cmd = (opdField cmd).extractLsb' 16 8 := by
  apply BitVec.eq_of_getLsbD_eq
  intro i h
  simp [aboveImm16, opdField, h]

theorem legalIf_eq_some {ok : Bool} {i j : Instr} : legalIf ok i = some j ↔ ok = true ∧ i = j := by
  cases ok <;> simp [legalIf]

theorem legalIf_eq_none {ok : Bool} {i : Instr} : legalIf ok i = none ↔ ok = false := by
  cases ok <;> simp [legalIf]

/-- A word that decodes at all has RSV = 0. -/
theorem rsvField_of_decode {cmd : Word} {i : Instr} (h : decode cmd = some i) : rsvField cmd = 0 := by
  unfold decode at h
  split at h
  · simpa using ‹(rsvField cmd == 0) = true›
  · cases h

/-- A word that decodes has the OP of the instruction it decodes to. -/
theorem opField_of_decode {cmd : Word} {i : Instr} (h : decode cmd = some i) : opField cmd = opcode i := by
  unfold decode at h
  split at h
  · unfold decodeOp at h
    split at h <;> rename_i hop <;>
      first
      | (cases h; exact hop)
      | (rw [legalIf_eq_some] at h; obtain ⟨-, rfl⟩ := h; exact hop)
      | cases h
  · cases h

/-- The bits of an 8-bit operand below a fixed part of a command word, as R84 writes it. -/
theorem getLsbD_append_byte (a : BitVec 24) (b : Byte) (i : Nat) :
    (a ++ b : Word).getLsbD i = if i < 8 then b.getLsbD i else a.getLsbD (i - 8) :=
  BitVec.getLsbD_append (x := a) (y := b)

/-- The bits of a 16-bit operand below a fixed part of a command word, as R85 and R100 write it. -/
theorem getLsbD_append_half (a : BitVec 16) (w : Half) (i : Nat) :
    (a ++ w : Word).getLsbD i = if i < 16 then w.getLsbD i else a.getLsbD (i - 16) :=
  BitVec.getLsbD_append (x := a) (y := w)

/-- An 8-bit operand in OPD. -/
theorem getLsbD_operand_byte (b : Byte) (i : Nat) :
    (0#16 ++ b : Group).getLsbD i = if i < 8 then b.getLsbD i else false := by
  have h : (0#16 ++ b : Group).getLsbD i = if i < 8 then b.getLsbD i else (0#16).getLsbD (i - 8) :=
    BitVec.getLsbD_append (x := 0#16) (y := b)
  simpa using h

/-- A 16-bit operand in OPD. -/
theorem getLsbD_operand_half (w : Half) (i : Nat) :
    (0#8 ++ w : Group).getLsbD i = if i < 16 then w.getLsbD i else false := by
  have h : (0#8 ++ w : Group).getLsbD i = if i < 16 then w.getLsbD i else (0#8).getLsbD (i - 16) :=
    BitVec.getLsbD_append (x := 0#8) (y := w)
  simpa using h

theorem commandWord_byte (op : BitVec 4) (a : BitVec 24) (b : Byte)
    (h : ∀ i < 24, a.getLsbD i = if i < 20 then false else op.getLsbD (i - 20)) :
    commandWord op (0#16 ++ b) = a ++ b := by
  apply BitVec.eq_of_getLsbD_eq
  intro i hi
  rw [getLsbD_commandWord, getLsbD_append_byte, getLsbD_operand_byte]
  by_cases h8 : i < 8
  · simp [h8, show i < 24 by omega]
  · rw [if_neg h8, if_neg h8, h (i - 8) (by omega), Nat.sub_sub]
    split <;> split <;> (try split) <;> first | rfl | omega

theorem commandWord_half (op : BitVec 4) (a : BitVec 16) (w : Half)
    (h : ∀ i < 16, a.getLsbD i = if i < 12 then false else op.getLsbD (i - 12)) :
    commandWord op (0#8 ++ w) = a ++ w := by
  apply BitVec.eq_of_getLsbD_eq
  intro i hi
  rw [getLsbD_commandWord, getLsbD_append_half, getLsbD_operand_half]
  by_cases h8 : i < 16
  · simp [h8, show i < 24 by omega]
  · rw [if_neg h8, if_neg h8, h (i - 16) (by omega), Nat.sub_sub]
    split <;> split <;> (try split) <;> first | rfl | omega

/-! The command word of each instruction as the rule of its own gives it. -/

theorem encode_ckInit : encode .ckInit = 0x10000000 := by decide

theorem encode_ckFeed (b : Byte) : encode (.ckFeed b) = 0x200000#24 ++ b :=
  commandWord_byte 0x2 0x200000 b (by decide)

theorem encode_ckFeed2 (w : Half) : encode (.ckFeed2 w) = 0x3000#16 ++ w :=
  commandWord_half 0x3 0x3000 w (by decide)

theorem encode_ckRead : encode .ckRead = 0x40000000 := by decide

theorem encode_fmtPack (w : Half) : encode (.fmtPack w) = 0x5000#16 ++ w :=
  commandWord_half 0x5 0x5000 w (by decide)

theorem encode_fmtCheck (g : Group) : encode (.fmtCheck g) = 0x60#8 ++ g := by
  have h : (0x6#4 ++ 0#4 : BitVec 8) = 0x60#8 := by decide
  show (0x6#4 ++ 0#4 : BitVec 8) ++ g = 0x60#8 ++ g
  rw [h]

theorem encode_ckStat : encode .ckStat = 0x70000000 := by decide

theorem encode_ckClr : encode .ckClr = 0x80000000 := by decide

end Sys2Proof
end

