-- ==== Sys2Proof/Laws/Operands.lean ====
section
/-! SUPPORT. The bytes of words and groups, bit by bit and whole, and the fields of the response words. -/

namespace Sys2Proof.Machine

theorem getLsbD_be16 (a b : Byte) (i : Nat) :
    (be16 a b).getLsbD i = if i < 8 then b.getLsbD i else a.getLsbD (i - 8) :=
  BitVec.getLsbD_append (x := a) (y := b)

theorem getLsbD_groupOf (b0 b1 k : Byte) (i : Nat) :
    (groupOf b0 b1 k).getLsbD i =
      if i < 8 then k.getLsbD i else if i < 16 then b1.getLsbD (i - 8) else b0.getLsbD (i - 16) := by
  have h1 : (groupOf b0 b1 k).getLsbD i = if i < 8 then k.getLsbD i else (be16 b0 b1).getLsbD (i - 8) :=
    BitVec.getLsbD_append (x := b0 ++ b1) (y := k)
  rw [h1, getLsbD_be16]
  split
  · rfl
  · by_cases h : i < 16
    · rw [if_pos h, if_pos (by omega)]
    · rw [if_neg h, if_neg (by omega), Nat.sub_sub]

theorem getLsbD_packResponse (g : Group) (i : Nat) : (packResponse g).getLsbD i = (decide (i < 24) && g.getLsbD i) := by
  have h : (packResponse g).getLsbD i = if i < 24 then g.getLsbD i else (0#8).getLsbD (i - 24) :=
    BitVec.getLsbD_append (x := 0#8) (y := g)
  rw [h]
  by_cases h : i < 24 <;> simp [h]

theorem getLsbD_byteResponse (b : Byte) (i : Nat) : (byteResponse b).getLsbD i = b.getLsbD i := by
  by_cases h : i < 32
  · simp [byteResponse, h]
  · simp [byteResponse, BitVec.getLsbD_setWidth, h, BitVec.getLsbD_of_ge b i (by omega)]

theorem getLsbD_checkResponse (g : Group) (i : Nat) :
    (checkResponse g).getLsbD i =
      if i < 16 then (wordOfGroup g).getLsbD i
      else if i < 24 then (computedChecksum g).getLsbD (i - 16)
      else decide (i = 24) && groupMatches g := by
  have h1 : (checkResponse g).getLsbD i = if i < 16 then (wordOfGroup g).getLsbD i else
      (0#7 ++ BitVec.ofBool (groupMatches g) ++ computedChecksum g).getLsbD (i - 16) :=
    BitVec.getLsbD_append (x := 0#7 ++ BitVec.ofBool (groupMatches g) ++ computedChecksum g) (y := wordOfGroup g)
  rw [h1, BitVec.getLsbD_append, BitVec.getLsbD_append]
  by_cases h16 : i < 16
  · rw [if_pos h16, if_pos h16]
  · rw [if_neg h16, if_neg h16]
    by_cases h24 : i < 24
    · rw [if_pos (by omega), if_pos h24]
    · rw [if_neg (by omega), if_neg h24]
      by_cases h25 : i = 24
      · subst h25; simp
      · rw [if_neg (by omega)]; simp [h25]

@[simp] theorem hiByte_be16 (a b : Byte) : hiByte (be16 a b) = a := by
  apply BitVec.eq_of_getLsbD_eq
  intro i h
  simp [hiByte, getLsbD_be16, h]

@[simp] theorem loByte_be16 (a b : Byte) : loByte (be16 a b) = b := by
  apply BitVec.eq_of_getLsbD_eq
  intro i h
  simp [loByte, getLsbD_be16, h]

@[simp] theorem be16_bytes (w : Half) : be16 (hiByte w) (loByte w) = w := by
  apply BitVec.eq_of_getLsbD_eq
  intro i h
  rw [getLsbD_be16]
  by_cases hi : i < 8
  · simp [loByte, hi]
  · have h1 : i - 8 < 8 := by omega
    have h2 : 8 + (i - 8) = i := by omega
    simp [hiByte, hi, h1, h2]

@[simp] theorem groupByte0_groupOf (b0 b1 k : Byte) : groupByte0 (groupOf b0 b1 k) = b0 := by
  apply BitVec.eq_of_getLsbD_eq
  intro i h
  have h1 : ¬ 16 + i < 8 := by omega
  simp [groupByte0, getLsbD_groupOf, h, h1]

@[simp] theorem groupByte1_groupOf (b0 b1 k : Byte) : groupByte1 (groupOf b0 b1 k) = b1 := by
  apply BitVec.eq_of_getLsbD_eq
  intro i h
  have h1 : 8 + i < 16 := by omega
  simp [groupByte1, getLsbD_groupOf, h, h1]

@[simp] theorem groupCheckByte_groupOf (b0 b1 k : Byte) : groupCheckByte (groupOf b0 b1 k) = k := by
  apply BitVec.eq_of_getLsbD_eq
  intro i h
  simp [groupCheckByte, getLsbD_groupOf, h]

/-- A group is its three bytes. -/
@[simp] theorem groupOf_bytes (g : Group) : groupOf (groupByte0 g) (groupByte1 g) (groupCheckByte g) = g := by
  apply BitVec.eq_of_getLsbD_eq
  intro i h
  rw [getLsbD_groupOf]
  by_cases h8 : i < 8
  · simp [groupCheckByte, h8]
  · by_cases h16 : i < 16
    · have h1 : i - 8 < 8 := by omega
      have h2 : 8 + (i - 8) = i := by omega
      simp [groupByte1, h8, h16, h1, h2]
    · have h1 : i - 16 < 8 := by omega
      have h2 : 16 + (i - 16) = i := by omega
      simp [groupByte0, h8, h16, h1, h2]

theorem groupMatches_iff (g : Group) : groupMatches g = true ↔ groupCheckByte g = computedChecksum g := by
  simp [groupMatches]

theorem groupMatches_false_iff (g : Group) : groupMatches g = false ↔ groupCheckByte g ≠ computedChecksum g := by
  simp [groupMatches]

@[simp] theorem computedChecksum_groupOf (b0 b1 k : Byte) : computedChecksum (groupOf b0 b1 k) = crc8 [b0, b1] := by
  simp [computedChecksum]

@[simp] theorem wordOfGroup_groupOf (b0 b1 k : Byte) : wordOfGroup (groupOf b0 b1 k) = be16 b0 b1 := by
  simp [wordOfGroup]

end Sys2Proof.Machine
end

