-- ==== Sys2Proof/Laws/Exec.lean ====
section
/-! SUPPORT. One lemma per command: the next state `exec` answers. -/

namespace Sys2Proof.Machine

@[simp] theorem exec_ckInit (s : State) : exec .ckInit s = .next (s.startChecksum.respond zeroResponse) := rfl

@[simp] theorem exec_ckFeed (b : Byte) (s : State) :
    exec (.ckFeed b) s = .next ((s.accumulate [b]).respond (byteResponse (crc8Step s.crc b))) := rfl

@[simp] theorem exec_ckFeed2 (w : Half) (s : State) :
    exec (.ckFeed2 w) s = .next ((s.accumulate [hiByte w, loByte w]).respond
      (byteResponse (crc8Step (crc8Step s.crc (hiByte w)) (loByte w)))) := rfl

@[simp] theorem exec_ckRead (s : State) : exec .ckRead s = .next (s.respond (byteResponse s.crc)) := rfl

@[simp] theorem exec_fmtPack (w : Half) (s : State) :
    exec (.fmtPack w) s = .next (s.respond (packResponse (groupOfWord w))) := rfl

@[simp] theorem exec_fmtCheck (g : Group) (s : State) :
    exec (.fmtCheck g) s = .next ((s.recordCheck (groupMatches g)).respond (checkResponse g)) := rfl

@[simp] theorem exec_ckStat (s : State) : exec .ckStat s = .next (s.respond s.status) := rfl

@[simp] theorem exec_ckClr (s : State) : exec .ckClr s = .next (s.clearErrors.respond zeroResponse) := rfl

end Sys2Proof.Machine
end

