-- ==== Sys2Proof/Laws/PerInstr.lean ====
section
/-! SUPPORT. Families of statements made for every instruction, one lemma per constructor. -/

namespace Sys2Proof.Laws.TableRow

/-- The command word of an instruction has the OP of R61 in bits 31:28, RSV = 0 in bits 27:24, and in bits 23:0 the
operand of R62; and the row of opcode_table.json named after the instruction is one of the table's eight. -/
def Statement (i : Instr) : Prop :=
  opField (encode i) = opcode i ∧ rsvField (encode i) = 0 ∧ opdField (encode i) = operand i ∧ rowOf i ∈ opcodeTable

theorem fields_encode (i : Instr) :
    opField (encode i) = opcode i ∧ rsvField (encode i) = 0 ∧ opdField (encode i) = operand i := by
  simp [encode]

theorem ckInit : Statement .ckInit := by
  obtain ⟨h1, h2, h3⟩ := fields_encode .ckInit
  exact ⟨h1, h2, h3, by decide⟩

theorem ckFeed (imm8 : Byte) : Statement (.ckFeed imm8) := by
  obtain ⟨h1, h2, h3⟩ := fields_encode (.ckFeed imm8)
  exact ⟨h1, h2, h3, by simp [opcodeTable, rowOf]⟩

theorem ckFeed2 (imm16 : Half) : Statement (.ckFeed2 imm16) := by
  obtain ⟨h1, h2, h3⟩ := fields_encode (.ckFeed2 imm16)
  exact ⟨h1, h2, h3, by simp [opcodeTable, rowOf]⟩

theorem ckRead : Statement .ckRead := by
  obtain ⟨h1, h2, h3⟩ := fields_encode .ckRead
  exact ⟨h1, h2, h3, by decide⟩

theorem fmtPack (imm16 : Half) : Statement (.fmtPack imm16) := by
  obtain ⟨h1, h2, h3⟩ := fields_encode (.fmtPack imm16)
  exact ⟨h1, h2, h3, by simp [opcodeTable, rowOf]⟩

theorem fmtCheck (imm24 : Group) : Statement (.fmtCheck imm24) := by
  obtain ⟨h1, h2, h3⟩ := fields_encode (.fmtCheck imm24)
  exact ⟨h1, h2, h3, by simp [opcodeTable, rowOf]⟩

theorem ckStat : Statement .ckStat := by
  obtain ⟨h1, h2, h3⟩ := fields_encode .ckStat
  exact ⟨h1, h2, h3, by decide⟩

theorem ckClr : Statement .ckClr := by
  obtain ⟨h1, h2, h3⟩ := fields_encode .ckClr
  exact ⟨h1, h2, h3, by decide⟩

end Sys2Proof.Laws.TableRow
end

