-- ==== Sys2Proof/Laws/Step.lean ====
section
/-! SUPPORT. What a step does, by the event at the head of the ports, and how runs of events compose. -/

namespace Sys2Proof.Machine

theorem nextEvent_cons {s : State} {e : HostEvent} {rest : List HostEvent} (h : s.inputs = e :: rest) :
    s.nextEvent = some (e, s.setInputs rest) := by
  simp [State.nextEvent, h]

theorem nextEvent_nil {s : State} (h : s.inputs = []) : s.nextEvent = none := by
  simp [State.nextEvent, h]

/-- A step handles the event at the head of the ports. -/
theorem step_cons {s : State} {e : HostEvent} {rest : List HostEvent} (h : s.inputs = e :: rest) :
    step s = handle e (s.setInputs rest) := by
  simp [step, nextEvent_cons h]

theorem step_nil {s : State} (h : s.inputs = []) : step s = .next s := by
  simp [step, nextEvent_nil h]

@[simp] theorem handle_command (cmd : Word) (s : State) : handle (.command cmd) s = execWord cmd s := rfl
@[simp] theorem handle_commandCutByReset (cmd : Word) (s : State) :
    handle (.commandCutByReset cmd) s = .next s.applyReset := rfl
@[simp] theorem handle_reset (s : State) : handle .reset s = .next s.applyReset := rfl

theorem execWord_legal {cmd : Word} {i : Instr} (h : decode cmd = some i) (s : State) :
    execWord cmd s = exec i s := by
  simp [execWord, h]

theorem execWord_illegal {cmd : Word} (h : decode cmd = none) (s : State) :
    execWord cmd s = .next s.raiseIllegalCommand := by
  simp [execWord, h]

/-- All that handling one event can do: an idle unit aside, every step is one of these. -/
theorem handle_cases {e : HostEvent} {s t : State} (h : handle e s = .next t) :
    (∃ cmd i, e = .command cmd ∧ decode cmd = some i ∧ exec i s = .next t) ∨
    (∃ cmd, e = .command cmd ∧ decode cmd = none ∧ t = s.raiseIllegalCommand) ∨
    (e.resets = true ∧ t = s.applyReset) := by
  cases e with
  | command cmd =>
    cases hd : decode cmd with
    | none =>
      rw [handle_command, execWord_illegal hd] at h
      exact .inr (.inl ⟨cmd, rfl, hd, (Host.Outcome.next.inj h).symm⟩)
    | some i =>
      rw [handle_command, execWord_legal hd] at h
      exact .inl ⟨cmd, i, rfl, hd, h⟩
  | commandCutByReset cmd => exact .inr (.inr ⟨rfl, (Host.Outcome.next.inj h).symm⟩)
  | reset => exact .inr (.inr ⟨rfl, (Host.Outcome.next.inj h).symm⟩)

theorem runSteps_zero (s : State) : runSteps 0 s = .next s := rfl

theorem runSteps_succ_of_next {k : Nat} {s t : State} (h : step s = .next t) :
    runSteps (k + 1) s = runSteps k t := by
  simp [runSteps, h]

theorem consumes_nil (s : State) : Consumes s [] [] s :=
  ⟨s.inputs, rfl, rfl, rfl, by simp⟩

/-- One event, then the others. -/
theorem Consumes.cons {s t u : State} {e : HostEvent} {es : List HostEvent} {rs rs' : List Word}
    (hs : s.inputs = e :: t.inputs) (h : step s = .next t) (hr : t.responses = s.responses ++ rs)
    (ht : Consumes t es rs' u) : Consumes s (e :: es) (rs ++ rs') u := by
  obtain ⟨rest, hin, hrun, hu, hres⟩ := ht
  refine ⟨rest, by rw [hs, hin]; rfl, ?_, hu, by rw [hres, hr, List.append_assoc]⟩
  rw [List.length_cons, runSteps_succ_of_next h]
  exact hrun

end Sys2Proof.Machine
end

