-- ==== Sys2Proof/Tests/Slice0.lean ====
section
/-! SUPPORT. The model's own tests. Every expected word, response and state is from spec/ (the vector or rule is named);
and for every statement with hypotheses, a state and operands that meet them, one theorem a statement, each clause of it
in turn. -/

open Sys2Proof Sys2Proof.Machine

namespace Sys2Proof.Tests

/-- The state with this tuple and these events on the ports, nothing answered yet. -/
def st (c : Byte) (f k i : Bool) (ins : List HostEvent) : State :=
  { crc := c, fed := f, ckfail := k, ill := i, inputs := ins, responses := [] }

/-- The next state, if there is one. -/
def after : Answer → Option State
  | .next s => some s
  | _ => none

/-- The tuple of 10_state.md R20 and the latest response after one command word issued at this tuple. -/
def observe (c : Byte) (f k i : Bool) (cmd : Word) : Option (Byte × Bool × Bool × Bool × List Word) :=
  (after (step (st c f k i [.command cmd]))).map fun t => (t.crc, t.fed, t.ckfail, t.ill, t.responses)

/-! ### WellFormed: an ill-formed term for each check (30_encoding.md R68, R69) -/

theorem test_illformed_feed : (Statement.ckFeed 0x100).wellFormed = false := by decide
theorem test_illformed_feed2 : (Statement.ckFeed2 0x10000).wellFormed = false := by decide
theorem test_illformed_pack : (Statement.fmtPack 0x10000).wellFormed = false := by decide
theorem test_illformed_check : (Statement.fmtCheck 0x1000000).wellFormed = false := by decide
theorem test_illformed_word : (Statement.word 0x100000000).wellFormed = false := by decide
theorem test_illformed_sumw : (Pseudo.ckSumw 0x10000).wellFormed = false := by decide
theorem test_illformed_packn : (Pseudo.fmtPackn 0x10000 []).wellFormed = false ∧
    (Pseudo.fmtPackn 1 [0x10000]).wellFormed = false ∧ (Pseudo.fmtPackn 1 [2, 3, 4]).wellFormed = false := by decide
theorem test_illformed_checkn : (Pseudo.fmtCheckn 0x1000000 []).wellFormed = false ∧
    (Pseudo.fmtCheckn 1 [0x1000000]).wellFormed = false ∧ (Pseudo.fmtCheckn 1 [2, 3, 4]).wellFormed = false := by decide
theorem test_illformed_line : (SourceLine.statement (.ckFeed 0x100)).wellFormed = false ∧
    (SourceLine.pseudo (.ckSumw 0x10000)).wellFormed = false := by decide
theorem test_wellformed_limits : (Statement.ckFeed 0xFF).wellFormed = true ∧ (Statement.ckFeed2 0xFFFF).wellFormed = true ∧
    (Statement.fmtCheck 0xFFFFFF).wellFormed = true ∧ (Statement.word 0xFFFFFFFF).wellFormed = true ∧
    (Pseudo.fmtPackn 1 [2, 3]).wellFormed = true ∧ (Pseudo.fmtCheckn 1 []).wellFormed = true := by decide

/-! ### Decoding: words written out field by field from 30_encoding.md R60 to R62, OP then RSV then OPD -/

theorem test_decode_init : decode 0b0001_0000_00000000_00000000_00000000 = some .ckInit := by decide
theorem test_decode_feed : decode 0b0010_0000_00000000_00000000_10111110 = some (.ckFeed 0xBE) := by decide
theorem test_decode_feed2 : decode 0b0011_0000_00000000_10111110_11101111 = some (.ckFeed2 0xBEEF) := by decide
theorem test_decode_read : decode 0b0100_0000_00000000_00000000_00000000 = some .ckRead := by decide
theorem test_decode_pack : decode 0b0101_0000_00000000_00010010_00110100 = some (.fmtPack 0x1234) := by decide
theorem test_decode_check : decode 0b0110_0000_10111110_11101111_10010010 = some (.fmtCheck 0xBEEF92) := by decide
theorem test_decode_stat : decode 0b0111_0000_00000000_00000000_00000000 = some .ckStat := by decide
theorem test_decode_clr : decode 0b1000_0000_00000000_00000000_00000000 = some .ckClr := by decide

/-- V80 to V97: each word is illegal. -/
theorem test_decode_illegal : (([0x00000000, 0x01000000, 0x0FFFFFFF, 0x90000000, 0xA0000000, 0xF0000000,
    0xFFFFFFFF, 0x11000000, 0x10000001] : List Word) ++ [0x20000100, 0x2F0000BE, 0x30010000, 0x40000001, 0x5001BEEF,
    0x61BEEF92, 0x6FFFFFFF, 0x70000080, 0x80800000]).all (fun cmd => decode cmd == none) = true := by decide +kernel

/-- The nearest legal neighbours listed under section 2.6 of 95_test_vectors.md. -/
theorem test_decode_legal_neighbours : ([0x10000000, 0x200000BE, 0x30000000, 0x40000000, 0x5000BEEF,
    0x60BEEF92, 0x60FFFFFF, 0x70000000, 0x80000000] : List Word).all (fun cmd => decode cmd != none) = true := by decide +kernel

theorem test_decode_table_word : decodeTableWord 32 0x5000BEEF = some (.fmtPack 0xBEEF) := by decide +kernel
theorem test_encode_check : encode (.fmtCheck 0xBEEF92) = 0x60BEEF92 := by decide

/-- The word placed by withFetchWord is the one the next step runs, from the state after reset (V32). -/
theorem test_fetch_word_runs :
    (after (step (State.reset.withFetchWord 32 0x20000000))).map (fun t => (t.crc, t.responses)) =
      some (0xAC, [0x000000AC]) := by decide +kernel

/-! ### One step of each command: section 2.3 to 2.6 of 95_test_vectors.md -/

theorem test_V31_init : observe 0x37 true true true 0x10000000 = some (0xFF, false, true, true, [0]) := by decide +kernel
theorem test_V34_feed : observe 0x92 true false false 0x200000BE = some (0xFB, true, false, false, [0xFB]) := by
  decide +kernel
theorem test_V33_feed : observe 0xFF false false false 0x200000FF = some (0x00, true, false, false, [0]) := by
  decide +kernel
theorem test_V37_feed2 : observe 0xFF false false false 0x3000BEEF = some (0x92, true, false, false, [0x92]) := by
  decide +kernel
theorem test_V40_feed2 : observe 0x0C true false false 0x3000EF92 = some (0x00, true, false, false, [0]) := by
  decide +kernel
theorem test_V44_read : observe 0x37 true true true 0x40000000 = some (0x37, true, true, true, [0x37]) := by decide +kernel
theorem test_V49_pack : observe 0x37 false true false 0x50001234 = some (0x37, false, true, false, [0x00123437]) := by
  decide +kernel
theorem test_V54_pack : observe 0xFF false false false 0x500001F4 = some (0xFF, false, false, false, [0x0001F433]) := by
  decide +kernel
theorem test_V42_check : observe 0xFF false false false 0x60BEEE92 = some (0xFF, false, true, false, [0x00A3BEEE]) := by
  decide +kernel
/-- Program P4: a match never clears CKFAIL. -/
theorem test_P4_check : observe 0xFF false true false 0x60123437 = some (0xFF, false, true, false, [0x01371234]) := by
  decide +kernel
theorem test_V71_stat : observe 0x37 true true true 0x70000000 = some (0x37, true, true, true, [0x7]) := by decide +kernel
theorem test_V72_stat : observe 0x37 false true false 0x70000000 = some (0x37, false, true, false, [0x2]) := by
  decide +kernel
theorem test_V73_clr : observe 0x37 true true true 0x80000000 = some (0x37, true, false, false, [0]) := by decide +kernel
theorem test_V94_illegal : observe 0x0C true false false 0x61BEEF92 = some (0x0C, true, false, true, [0xFFFFFFFF]) := by
  decide +kernel
/-- Program P9: a command cut by reset has no effect and no response. -/
theorem test_P9_cut : after (step (st 0x0C true true true [.commandCutByReset 0x200000EF])) = some State.reset := by
  decide +kernel
/-- V20: the nine bytes of program P6. -/
theorem test_V20_crc8 : crc8 [0x31, 0x32, 0x33, 0x34, 0x35, 0x36, 0x37, 0x38, 0x39] = 0xF7 := by decide +kernel
/-- V28: the checksum runs on across groups. -/
theorem test_V28_crc8 : crc8 [0x12, 0x34, 0x37, 0xBE, 0xEF, 0x92] = 0x4B := by decide +kernel
/-- V4 and program P2: the payload of two words, and its split. -/
theorem test_V4_payload : payloadOfWords [0xBEEF, 0x1234] = [0xBE, 0xEF, 0x92, 0x12, 0x34, 0x37] ∧
    groupsOfPayload [0xBE, 0xEF, 0x92, 0x12, 0x34, 0x37] = some [0xBEEF92, 0x123437] ∧
    groupsOfPayload [0xBE, 0xEF] = none := by decide +kernel

/-! ### The assembler (30_encoding.md R68, R69) -/

/-- `ck.feed 0xB_E ; x` -/
theorem test_asm_feed : assembleText ['c', 'k', '.', 'f', 'e', 'e', 'd', ' ', '0', 'x', 'B', '_', 'E', ' ', ';', ' ', 'x'] =
    some [0x200000BE] := by decide +kernel
/-- `ck.feed 256` is rejected, not truncated. -/
theorem test_asm_too_big : assembleText ['c', 'k', '.', 'f', 'e', 'e', 'd', ' ', '2', '5', '6'] = none := by decide +kernel
/-- `fmt.checkn 0xBEEF92, 0x123437` is program P3. -/
theorem test_asm_P3 : assemblePseudo (.fmtCheckn 0xBEEF92 [0x123437]) =
    some [0x80000000, 0x60BEEF92, 0x60123437, 0x70000000] := by decide +kernel
/-- `fmt.packn 1, 2` -/
theorem test_asm_packn : assembleText ['f', 'm', 't', '.', 'p', 'a', 'c', 'k', 'n', ' ', '1', ',', ' ', '2'] =
    some [0x50000001, 0x50000002] := by decide +kernel

/-! ### Witnesses: the hypotheses of each statement are met together -/

theorem witness_DecodeAndEncodeAgree : decode 0x200000FF = some (.ckFeed 0xFF) := by decide
theorem witness_DecoderIsTheSpecsFunction : decode 0x6000FFFF = some (.fmtCheck 0xFFFF) ∧
    rowOf (.fmtCheck 0xFFFF) ∈ opcodeTable := by decide
theorem witness_IllegalWordsAreExactlyTheListed :
    decode 0x20000100 = none ∧ (st 0 true true false [.command 0x20000100]).inputs = .command 0x20000100 :: [] := by decide
theorem witness_StepRunsDecodedCommand :
    ((st 5 true false true [.command 0x40000000, .reset]).inputs = .command 0x40000000 :: [.reset] ∧
      decode 0x40000000 = some .ckRead) ∧ decodeTableWord 32 0x40000000 = some .ckRead := by decide
theorem witness_IdleUnitWaitsUnchanged : (st 5 true false true []).inputs = [] := rfl
theorem witness_EveryLegalCommandAlwaysCompletes :
    decode 0x80000000 ≠ none ∧ (st 5 true true true [.command 0x80000000]).inputs = .command 0x80000000 :: [] := by decide
theorem witness_EveryEventIsHandledInOrder :
    (st 5 true false true [.command 0, .commandCutByReset 1, .reset]).inputs = [.command 0, .commandCutByReset 1] ++ [.reset] :=
  rfl
theorem witness_ResponseWordsFollowTheLayouts :
    (st 5 true true true [.command 0x70000000]).inputs = .command 0x70000000 :: [] ∧
    decode 0x70000000 = some .ckStat ∧ decode 0x70000001 = none := by decide
theorem witness_ResetEventRestoresTheTuple :
    (st 5 true true true [.reset, .command 0x40000000]).inputs = .reset :: .command 0x40000000 :: [] ∧
    decode 0x40000000 = some .ckRead := by decide
theorem witness_ResetAbandonsCommandInProgress :
    (st 5 true true true [.commandCutByReset 0xFFFFFFFF]).inputs = .commandCutByReset 0xFFFFFFFF :: [] ∧
    HostEvent.resets (.commandCutByReset 0xFFFFFFFF) = true ∧
    after (step (st 5 true true true [.commandCutByReset 0xFFFFFFFF])) = some State.reset := by decide
theorem witness_IllegalCommandOnlyRecordsItself :
    decode 0 = none ∧ decode 0x40000000 = some .ckRead ∧
    (st 5 true true true [.command 0, .command 0x40000000]).inputs = .command 0 :: .command 0x40000000 :: [] := by decide
theorem witness_MismatchIsSurfacedUntilCleared :
    (st 5 true false true [.command (0x60#8 ++ 0x000000#24), .command 0x10000000]).inputs =
      .command (0x60#8 ++ 0x000000#24) :: [.command 0x10000000] ∧
    (0x000000#24).extractLsb' 0 8 ≠ crc8 [(0x000000#24).extractLsb' 16 8, (0x000000#24).extractLsb' 8 8] ∧
    (∀ e ∈ [HostEvent.command 0x10000000], e.resets = false ∧ e ≠ .command 0x80000000) := by decide +kernel
/-- The last hypothesis of that statement: CK.INIT after the mismatch is consumed. -/
theorem witness_MismatchIsSurfacedUntilCleared_consumes :
    Consumes (st 5 true true true [.command 0x10000000]) [.command 0x10000000] [0] (st 0xFF false true true [] |>.respond 0) :=
  ⟨[], rfl, rfl, rfl, rfl⟩
theorem witness_OneErrorEventAtMostPerCommand_ill :
    after (step (st 5 true false false [.command 0])) = some ((st 5 true false true []).respond 0xFFFFFFFF) := by decide
theorem witness_OneErrorEventAtMostPerCommand_ckfail :
    (after (step (st 5 true false false [.command 0x60000000]))).map State.ckfail = some true := by decide +kernel
theorem witness_OneErrorEventAtMostPerCommand_reset :
    HostEvent.reset.resets = true ∧ after (step (st 5 true true true [.reset])) = some State.reset := by decide
theorem witness_CrcIsWrittenOnlyByItsCommands_reset :
    HostEvent.reset.resets = true ∧ (after (step (st 5 true true true [.reset]))).map State.crc = some 0xFF := by decide
/-- CK.INIT's disjunct: CRC 5 and CRC 0x80 lead to the same state. -/
theorem witness_CrcIsWrittenOnlyByItsCommands_init :
    (st 5 true true true [.command 0x10000000]).inputs = .command 0x10000000 :: [] ∧
    after (step (st 5 true true true [.command 0x10000000])) = some ((st 0xFF false true true []).respond 0) ∧
    after (step (st 0x80 true true true [.command 0x10000000])) = some ((st 0xFF false true true []).respond 0) := by decide
theorem witness_CrcIsWrittenOnlyByItsCommands_read :
    (st 0x80 true true true [.command 0x40000000]).inputs = .command 0x40000000 :: [] ∧
    after (step (st 0x80 true true true [.command 0x40000000])) =
      some ((st 0x80 true true true []).respond 0x00000080) := by decide
theorem witness_CrcIsWrittenOnlyByItsCommands_feed :
    (HostEvent.command 0x200000FF = .command (0x200000#24 ++ 0xFF#8)) ∧
    (HostEvent.command 0x3000FFFF = .command (0x3000#16 ++ 0xFFFF#16)) ∧
    (after (step (st 5 true true true [.command 0x200000FF]))).isSome = true ∧
    (after (step (st 5 true true true [.command 0x3000FFFF]))).isSome = true := by decide +kernel
theorem witness_CrcIsWrittenOnlyByItsCommands_other :
    HostEvent.resets (.command 0x80000000) = false ∧ HostEvent.command 0x80000000 ≠ .command 0x10000000 ∧
    HostEvent.command 0x80000000 ≠ .command 0x40000000 ∧
    (∀ b : Byte, HostEvent.command 0x80000000 ≠ .command (0x200000#24 ++ b)) := by decide +kernel
/-- The clause left: OP of 0x8000_0000 is not that of CK.FEED2. -/
theorem witness_CrcIsWrittenOnlyByItsCommands_other_feed2 (w : Half) :
    HostEvent.command 0x80000000 ≠ .command (0x3000#16 ++ w) := by
  intro h
  have hw : (0x80000000 : Word) = 0x3000#16 ++ w := HostEvent.command.inj h
  have hb : (0x3000#16 ++ w : Word).getLsbD 31 = if 31 < 16 then w.getLsbD 31 else (0x3000#16).getLsbD (31 - 16) :=
    BitVec.getLsbD_append (x := 0x3000#16) (y := w)
  rw [← hw] at hb
  simp at hb
theorem witness_FedTellsWhetherBytesWentIn :
    after (step (st 0xFF false true true [.command 0x40000000])) = some ((st 0xFF false true true []).respond 0xFF) ∧
    (st 0xFF false true true []).crc = 0xFF := by decide
theorem witness_CkfailIsStickyUntilClrOrReset :
    (st 5 true true false [.command 0x80000000]).inputs = .command 0x80000000 :: [] ∧
    after (step (st 5 true true false [.command 0x80000000])) = some ((st 5 true false false []).respond 0) := by decide
theorem witness_IllIsStickyUntilClrOrReset :
    (st 5 true false true [.command 0xFFFFFFFF]).inputs = .command 0xFFFFFFFF :: [] ∧
    after (step (st 5 true false true [.command 0xFFFFFFFF])) =
      some ((st 5 true false true []).respond 0xFFFFFFFF) := by decide
theorem witness_EveryStepKeepsConsistency :
    (st 0xFF false true true [.command 0x200000FF]).Consistent ∧
    (after (step (st 0xFF false true true [.command 0x200000FF]))).isSome = true :=
  ⟨fun _ => rfl, by decide +kernel⟩
theorem witness_OnlyTheTupleIsObservable :
    (st 5 true false true [.command 0x10000000]).SameTuple (st 5 true false true [.command 0x10000000] |>.respond 7) ∧
    Consumes (st 5 true false true [.command 0x10000000]) [.command 0x10000000] [0]
      (st 0xFF false false true [] |>.respond 0) ∧
    Consumes (st 5 true false true [.command 0x10000000] |>.respond 7) [.command 0x10000000] [0]
      ((st 0xFF false false true [] |>.respond 7).respond 0) :=
  ⟨⟨rfl, rfl, rfl, rfl⟩, ⟨[], rfl, rfl, rfl, rfl⟩, ⟨[], rfl, rfl, rfl, rfl⟩⟩
theorem witness_ChecksumIsTheFoldFromInit : ([0xBE] : List Byte) ≠ [] := by decide
theorem witness_ChecksumHasTheFixedParameters : ([0x31, 0x32] : List Byte) ≠ [] := by decide
theorem witness_InitStartsNewChecksum :
    (st 0xFF false true true []).crc = 0xFF ∧ (st 0xFF false true true []).fed = false ∧
    after (exec .ckInit (st 5 true true true [])) = some ((st 0xFF false true true []).respond 0) := by decide
theorem witness_Feed2AccumulatesWordBigEndian :
    (st 0xFF false true true []).crc = 0xFF ∧
    (after (exec (.ckFeed 0xBE) (st 0xFF false true true []))).map State.crc = some 0x0C ∧
    (after (exec (.ckFeed 0xEF) (st 0x0C true true true []))).map State.crc = some 0x92 := by decide +kernel
theorem witness_ReadReturnsRunningRegister :
    (st 0xFF false true true []).Consistent ∧ (st 0xFF false true true []).fed = false ∧
    after (exec .ckRead (st 0xFF false true true [])) = some ((st 0xFF false true true []).respond 0xFF) :=
  ⟨fun _ => rfl, rfl, by decide⟩
theorem witness_PackBuildsCheckedGroup :
    (st 5 true true true [.command (0x5000#16 ++ 0x0000#16), .command (0x5000#16 ++ 0xFFFF#16), .reset]).inputs =
      [0x0000#16, 0xFFFF#16].map (fun w => HostEvent.command (0x5000#16 ++ w)) ++ [.reset] := rfl
theorem witness_StatReadsStatusWithoutClearing :
    decode 0 = none ∧
    (st 5 true true false [.command 0, .command 0x70000000]).inputs = .command 0 :: .command 0x70000000 :: [] := by decide
theorem witness_ClrClearsOnlyStickyFlags :
    (st 5 true false false []).ckfail = false ∧ (st 5 true false false []).ill = false := by decide
theorem witness_AccumulatedChecksumIsOfAllBytesFed :
    (st 5 true true true [.command 0x10000000, .command 0x200000BE, .command 0, .command 0x3000EF92]).inputs =
      .command 0x10000000 :: [0x200000BE, 0, 0x3000EF92].map .command ++ [] ∧
    (∀ cmd ∈ ([0x200000BE, 0, 0x3000EF92] : List Word), cmd ≠ 0x10000000) ∧
    ([0x200000BE, 0, 0x3000EF92] : List Word).flatMap bytesFed = [0xBE, 0xEF, 0x92] :=
  ⟨rfl, by simp, by decide +kernel⟩
theorem witness_SingleByteCorruptionIsDetected :
    (0x93 : Byte) ≠ crc8 [0xBE, 0xEF] ∧ (0xBF : Byte) ≠ 0xBE ∧ (0xEE : Byte) ≠ 0xEF := by decide +kernel
theorem witness_ResidueIsZeroExactlyForValidGroups :
    (st 5 true true true [.command 0x10000000, .command 0x200000BE, .command 0x200000EF, .command 0x20000092]).inputs =
      [.command 0x10000000, .command (0x200000#24 ++ 0xBE#8), .command (0x200000#24 ++ 0xEF#8),
        .command (0x200000#24 ++ 0x92#8)] ++ [] := by decide
theorem witness_PayloadIsValidExactlyWhenCkfailClear :
    (st 5 true true true [.command 0x80000000, .command 0x60BEEF92, .command 0x60123437, .command 0x70000000]).inputs =
      .command 0x80000000 :: ([0xBEEF92, 0x123437] : List Group).map (fun g => .command (0x60#8 ++ g)) ++
        .command 0x70000000 :: [] ∧
    (st 5 true false true [.command 0x60FFFFFF, .command 0x70000000]).inputs =
      ([0xFFFFFF] : List Group).map (fun g => .command (0x60#8 ++ g)) ++ .command 0x70000000 :: [] ∧
    (after (exec (.fmtCheck 0xBEEF93) (st 5 true false true []))).map State.responses = some [0x0092BEEF] ∧
    (0x0092BEEF : Word).getLsbD 24 = false := by decide +kernel
/-- V4 and program P3. -/
theorem witness_PayloadWordsAreReadFromCheckResponses :
    groupsOfPayload [0xBE, 0xEF, 0x92, 0x12, 0x34, 0x37] = some [0xBEEF92, 0x123437] ∧
    (st 5 true true true [.command 0x60BEEF92, .command 0x60123437]).inputs =
      ([0xBEEF92, 0x123437] : List Group).map (fun g => .command (0x60#8 ++ g)) ++ [] ∧
    ([0xBE, 0xEF, 0x92, 0x12, 0x34, 0x37] : List Byte)[3 * 1]? = some 0x12 ∧
    ([0xBE, 0xEF, 0x92, 0x12, 0x34, 0x37] : List Byte)[3 * 1 + 1]? = some 0x34 ∧
    ([0xBE, 0xEF, 0x92, 0x12, 0x34, 0x37] : List Byte)[3 * 1 + 2]? = some 0x37 := by decide +kernel
theorem witness_PayloadsSplitIntoTheirGroups : groupsOfPayload [0xBE, 0xEF, 0x92] = some [0xBEEF92] := by decide
theorem witness_AssemblerNeverTruncates :
    assembleStatement (.ckFeed 0xFF) = some 0x200000FF ∧ assembleStatement (.ckFeed2 0xFFFF) = some 0x3000FFFF ∧
    assembleStatement (.fmtPack 0) = some 0x50000000 ∧ assembleStatement (.fmtCheck 0xFFFFFF) = some 0x60FFFFFF := by
  decide +kernel
/-- The first immediate past each field is rejected. -/
theorem witness_AssemblerNeverTruncates_rejected :
    assembleStatement (.ckFeed 0x100) = none ∧ assembleStatement (.ckFeed2 0x10000) = none ∧
    assembleStatement (.fmtPack 0x10000) = none ∧ assembleStatement (.fmtCheck 0x1000000) = none := by decide +kernel
/-- `.word` at the top of its range, an illegal word being given as it is; and just past it (log entry 10). -/
theorem witness_AssemblerNeverTruncates_word :
    assembleStatement (.word (0xFFFFFFFF#32).toNat) = some 0xFFFFFFFF ∧ decode 0xFFFFFFFF = none ∧
    2 ^ 32 ≤ 0x100000000 ∧ assembleStatement (.word 0x100000000) = none := by decide +kernel
theorem witness_PseudoInstructionsGiveTheirResults :
    assemblePseudo (.ckSumw (0xBEEF#16).toNat) = some [0x10000000, 0x3000BEEF] ∧
    assemblePseudo (.fmtPackn (0xBEEF#16).toNat ([0x1234#16].map BitVec.toNat)) = some [0x5000BEEF, 0x50001234] ∧
    assemblePseudo (.fmtCheckn (0xBEEF92#24).toNat ([0x123437#24].map BitVec.toNat)) =
      some [0x80000000, 0x60BEEF92, 0x60123437, 0x70000000] ∧
    (st 5 true true true [.command 0x10000000, .command 0x3000BEEF]).inputs =
      [0x10000000, 0x3000BEEF].map .command ++ [] := by decide +kernel
theorem witness_ResetStateIsConsistent : State.reset.Consistent := fun _ => rfl

end Sys2Proof.Tests
end

section
/-! The parallel checksum, which XORs a whole byte into the register before it shifts, and the bit-serial CRC, into which
each message bit enters by itself, are the same function (00_scope.md R2, 40_checksum.md R80). -/

namespace Sys2Proof.Machine

/-- The `n` bits that leave a byte at bit 7 when it is shifted left `n` times, in the order they leave. -/
def bitsShiftedOut : Nat → Byte → List Bool
  | 0, _ => []
  | n + 1, y => y.getLsbD 7 :: bitsShiftedOut n (y <<< 1)

theorem bitsMsbFirst_eq_bitsShiftedOut (b : Byte) : bitsMsbFirst b = bitsShiftedOut 8 b := by
  simp [bitsMsbFirst, bitsShiftedOut]

/-- The one step of the equivalence: the message bits not yet consumed, `y`, may stand XORed into the register `x`
already, as long as the serial form is fed the top one of them. -/
theorem serialBit_xor (x y : Byte) :
    serialBit Config.ck8Poly (x ^^^ y) (y.getLsbD 7) = crcShift x ^^^ (y <<< 1) := by
  have topBit : ((x ^^^ y).getLsbD 7 != y.getLsbD 7) = x.getLsbD 7 := by simp
  rw [serialBit, topBit, crcShift, BitVec.shiftLeft_xor_distrib]
  split
  · ac_rfl
  · rfl

theorem foldl_serialBit_bitsShiftedOut (n : Nat) (x y : Byte) :
    (bitsShiftedOut n y).foldl (serialBit Config.ck8Poly) (x ^^^ y) = crcShifts n x ^^^ (y <<< n) := by
  induction n generalizing x y with
  | zero => simp [bitsShiftedOut, crcShifts]
  | succ n ih =>
    rw [bitsShiftedOut, List.foldl_cons, serialBit_xor, ih, crcShifts, ← BitVec.shiftLeft_add, Nat.add_comm 1]

/-- One byte, most significant bit first, takes the serial register where `crc8_step` does. -/
theorem foldl_serialBit_bitsMsbFirst (c b : Byte) :
    (bitsMsbFirst b).foldl (serialBit Config.ck8Poly) c = crc8Step c b := by
  have shiftedAway : b <<< 8 = 0#8 := BitVec.shiftLeft_eq_zero (le_refl 8)
  calc (bitsMsbFirst b).foldl (serialBit Config.ck8Poly) c
      = (bitsShiftedOut 8 b).foldl (serialBit Config.ck8Poly) (c ^^^ b ^^^ b) := by
        rw [bitsMsbFirst_eq_bitsShiftedOut, BitVec.xor_assoc, BitVec.xor_self, BitVec.xor_zero]
    _ = crc8Step c b := by
        rw [foldl_serialBit_bitsShiftedOut, shiftedAway, BitVec.xor_zero, crc8Step_eq_crcShifts]

/-- Without reflection and final XOR, the serial CRC over a byte list is the fold of `crc8_step`, from any initial
value. -/
theorem serialCrc_eq_crcFrom (init : Byte) (bs : List Byte) :
    serialCrc Config.ck8Poly init 0x00 false false bs = crcFrom init bs := by
  simp [serialCrc, foldl_serialBit_bitsMsbFirst, crcFrom]

/-- Settles O28: the parameters by their definitions, the checksum by `serialCrc_eq_crcFrom` (the empty list needs no
exception). -/
theorem checksumHasTheFixedParameters : Obligations.ChecksumHasTheFixedParameters :=
  ⟨⟨rfl, rfl, rfl, rfl, rfl, rfl⟩, fun bs _ => (serialCrc_eq_crcFrom Config.ck8Init bs).symm⟩

end Sys2Proof.Machine
end

section
/-! The decoder and the encoder are inverse (30_encoding.md R60 to R63), so a legal command word may be named by the
instruction it means. -/

namespace Sys2Proof

@[simp] theorem imm8_of_operand (b : Byte) : (0#16 ++ b : Group).extractLsb' 0 8 = b :=
  BitVec.extractLsb'_append_eq_right (a := 0#16)

@[simp] theorem aboveImm8_of_operand (b : Byte) : (0#16 ++ b : Group).extractLsb' 8 16 = 0#16 :=
  BitVec.extractLsb'_append_eq_left (b := b)

@[simp] theorem imm16_of_operand (w : Half) : (0#8 ++ w : Group).extractLsb' 0 16 = w :=
  BitVec.extractLsb'_append_eq_right (a := 0#8)

@[simp] theorem aboveImm16_of_operand (w : Half) : (0#8 ++ w : Group).extractLsb' 16 8 = 0#8 :=
  BitVec.extractLsb'_append_eq_left (b := w)

/-- An OPD whose bits above imm8 are 0 is the operand imm8. -/
theorem operand_of_aboveImm8 {g : Group} (h : g.extractLsb' 8 16 = 0#16) : g = 0#16 ++ g.extractLsb' 0 8 := by
  rw [← h]
  exact ((BitVec.extractLsb'_append_extractLsb'_eq_extractLsb' (start₁ := 0) (len₁ := 8) rfl).trans
    BitVec.extractLsb'_eq_self).symm

/-- An OPD whose bits above imm16 are 0 is the operand imm16. -/
theorem operand_of_aboveImm16 {g : Group} (h : g.extractLsb' 16 8 = 0#8) : g = 0#8 ++ g.extractLsb' 0 16 := by
  rw [← h]
  exact ((BitVec.extractLsb'_append_extractLsb'_eq_extractLsb' (start₁ := 0) (len₁ := 16) rfl).trans
    BitVec.extractLsb'_eq_self).symm

@[simp] theorem decode_encode (i : Instr) : decode (encode i) = some i := by
  cases i <;>
    simp [decode, decodeOp, encode, opcode, operand, legalIf, imm8Field_eq, imm16Field_eq, aboveImm8_eq, aboveImm16_eq]

theorem decodeOp_of_decode {cmd : Word} {i : Instr} (h : decode cmd = some i) : decodeOp cmd = some i := by
  rwa [decode, if_pos (by simp [rsvField_of_decode h])] at h

/-- A word that decodes has the operand of the instruction it decodes to in OPD. -/
theorem opdField_of_decode {cmd : Word} {i : Instr} (h : decode cmd = some i) : opdField cmd = operand i := by
  have hi := decodeOp_of_decode h
  unfold decodeOp at hi
  split at hi <;>
    simp only [legalIf_eq_some, beq_iff_eq, aboveImm8_eq, aboveImm16_eq, Option.some.injEq, reduceCtorEq] at hi
  case h_2 => rw [← hi.2, operand, imm8Field_eq]; exact operand_of_aboveImm8 hi.1
  case h_3 | h_5 => rw [← hi.2, operand, imm16Field_eq]; exact operand_of_aboveImm16 hi.1
  case h_6 => rw [← hi, operand]
  case h_1 | h_4 | h_7 | h_8 => rw [← hi.2, operand, hi.1]

theorem encode_of_decode {cmd : Word} {i : Instr} (h : decode cmd = some i) : encode i = cmd := by
  rw [encode, ← opField_of_decode h, ← opdField_of_decode h, commandWord_fields cmd (rsvField_of_decode h)]

theorem encode_inj {i j : Instr} : encode i = encode j ↔ i = j :=
  ⟨fun h => Option.some.inj (by rw [← decode_encode i, h, decode_encode]), congrArg encode⟩

/-- An illegal word is the command word of no instruction. -/
theorem ne_encode_of_illegal {cmd : Word} (h : decode cmd = none) (i : Instr) : cmd ≠ encode i := by
  rintro rfl
  simp at h

end Sys2Proof
end

section
/-! What every host event does at the ports (10_state.md R29), and that it does it by the tuple alone (R20, R28). -/

namespace Sys2Proof.Machine

/-- The answer `a` to an event handled in the state `s`: the next state `t`, the port untouched, the responses `rs`
delivered after the earlier ones. -/
structure State.Delivers (s : State) (a : Answer) (rs : List Word) (t : State) : Prop where
  next : a = .next t
  inputs : t.inputs = s.inputs
  responses : t.responses = s.responses ++ rs

theorem State.SameTuple.refl (s : State) : s.SameTuple s := ⟨rfl, rfl, rfl, rfl⟩

/-- FMT.CHECK, whole: CKFAIL and the response, the verdict being the operand's (41_frame.md R101). -/
theorem exec_fmtCheck_eq (g : Group) (s : State) : exec (.fmtCheck g) s = .next
    { s with ckfail := s.ckfail || !groupMatches g, responses := s.responses ++ [checkResponse g] } := by
  rw [exec_fmtCheck, Host.Outcome.next.injEq]
  apply State.eq_of_fields <;> simp

/-- A command does the same on equal tuples: it delivers one response, the same word, and leaves equal tuples. -/
theorem exec_lockstep {s s' : State} (h : s.SameTuple s') (i : Instr) :
    ∃ (r : Word) (t t' : State), s.Delivers (exec i s) [r] t ∧ s'.Delivers (exec i s') [r] t' ∧ t.SameTuple t' := by
  obtain ⟨crc, fed, ckfail, ill, inputs, responses⟩ := s
  obtain ⟨crc', fed', ckfail', ill', inputs', responses'⟩ := s'
  obtain ⟨rfl, rfl, rfl, rfl⟩ : crc = crc' ∧ fed = fed' ∧ ckfail = ckfail' ∧ ill = ill' := h
  cases i with
  | fmtCheck g =>
    exact ⟨_, _, _, ⟨exec_fmtCheck_eq g _, rfl, rfl⟩, ⟨exec_fmtCheck_eq g _, rfl, rfl⟩, rfl, rfl, rfl, rfl⟩
  | _ => exact ⟨_, _, _, ⟨rfl, rfl, rfl⟩, ⟨rfl, rfl, rfl⟩, rfl, rfl, rfl, rfl⟩

/-- Every event is handled, alike on equal tuples, and is answered once where it is a command not cut by reset. -/
theorem handle_lockstep {s s' : State} (h : s.SameTuple s') (e : HostEvent) :
    ∃ (rs : List Word) (t t' : State), s.Delivers (handle e s) rs t ∧ s'.Delivers (handle e s') rs t' ∧
      t.SameTuple t' ∧ rs.length = [e].countP HostEvent.answered := by
  cases e with
  | command cmd =>
    cases hd : decode cmd with
    | some i =>
      obtain ⟨r, t, t', ht, ht', hsame⟩ := exec_lockstep h i
      exact ⟨[r], t, t', by rwa [handle_command, execWord_legal hd], by rwa [handle_command, execWord_legal hd],
        hsame, rfl⟩
    | none =>
      obtain ⟨hcrc, hfed, hckfail, -⟩ := h
      refine ⟨[illegalResponse], s.raiseIllegalCommand, s'.raiseIllegalCommand, ⟨?_, rfl, rfl⟩, ⟨?_, rfl, rfl⟩,
        ⟨hcrc, hfed, hckfail, rfl⟩, rfl⟩ <;>
      rw [handle_command, execWord_illegal hd]
  | _ => exact ⟨[], s.applyReset, s'.applyReset, ⟨rfl, rfl, by simp⟩, ⟨rfl, rfl, by simp⟩, .refl _, rfl⟩

/-- An event handled at the head of the port comes before those consumed after it. -/
theorem State.Delivers.consumes_cons {s t u : State} {e : HostEvent} {es ins : List HostEvent} {rs rs' : List Word}
    (hin : s.inputs = e :: ins) (h : (s.setInputs ins).Delivers (handle e (s.setInputs ins)) rs t)
    (ht : Consumes t es rs' u) : Consumes s (e :: es) (rs ++ rs') u := by
  exact Consumes.cons (by simpa [h.inputs] using hin) ((step_cons hin).trans h.next) h.responses ht

/-- Two units with the same tuple and the same events next work through them side by side. -/
theorem consumes_lockstep {es rest rest' : List HostEvent} {s s' : State} (h : s.SameTuple s')
    (hin : s.inputs = es ++ rest) (hin' : s'.inputs = es ++ rest') :
    ∃ (rs : List Word) (t t' : State), Consumes s es rs t ∧ Consumes s' es rs t' ∧ t.SameTuple t' ∧
      rs.length = es.countP HostEvent.answered := by
  induction es generalizing s s' with
  | nil => exact ⟨[], s, s', consumes_nil s, consumes_nil s', h, rfl⟩
  | cons e es ih =>
    have h' : (s.setInputs (es ++ rest)).SameTuple (s'.setInputs (es ++ rest')) := h
    obtain ⟨rs, t, t', ht, ht', hsame, hlen⟩ := handle_lockstep h' e
    obtain ⟨rs', u, u', hu, hu', hsame', hlen'⟩ := ih hsame ht.inputs ht'.inputs
    refine ⟨rs ++ rs', u, u', ht.consumes_cons hin hu, ht'.consumes_cons hin' hu', hsame', ?_⟩
    rw [List.length_append, hlen, hlen', ← List.countP_append, List.singleton_append]

/-- Any list of events at the head of the port is worked through. -/
theorem exists_consumes {s : State} {es rest : List HostEvent} (hin : s.inputs = es ++ rest) :
    ∃ (rs : List Word) (t : State), Consumes s es rs t ∧ rs.length = es.countP HostEvent.answered := by
  obtain ⟨rs, t, -, ht, -, -, hlen⟩ := consumes_lockstep (.refl s) hin hin
  exact ⟨rs, t, ht, hlen⟩

/-- The events fix the responses and the state after them. -/
theorem Consumes.det {s t t' : State} {es : List HostEvent} {rs rs' : List Word} (h : Consumes s es rs t)
    (h' : Consumes s es rs' t') : rs = rs' ∧ t = t' := by
  obtain ⟨-, -, hrun, -, hrs⟩ := h
  obtain ⟨-, -, hrun', -, hrs'⟩ := h'
  obtain rfl : t = t' := Host.Outcome.next.inj (hrun.symm.trans hrun')
  exact ⟨List.append_cancel_left (hrs.symm.trans hrs'), rfl⟩

theorem runSteps_add_of_next {m n : Nat} {s t : State} (h : runSteps m s = .next t) :
    runSteps (m + n) s = runSteps n t := by
  induction m generalizing s with
  | zero => rw [Nat.zero_add, Host.Outcome.next.inj h]
  | succ m ih =>
    rw [Nat.succ_add]
    cases hstep : step s with
    | next s' =>
      rw [runSteps_succ_of_next hstep] at h ⊢
      exact ih h
    | fault r => simp [runSteps, hstep] at h
    | refused r => simp [runSteps, hstep] at h

theorem Consumes.append {s t u : State} {es es' : List HostEvent} {rs rs' : List Word} (h : Consumes s es rs t)
    (h' : Consumes t es' rs' u) : Consumes s (es ++ es') (rs ++ rs') u := by
  obtain ⟨-, hin, hrun, rfl, hrs⟩ := h
  obtain ⟨rest, hin', hrun', hu, hrs'⟩ := h'
  refine ⟨rest, by rw [hin, hin', List.append_assoc], ?_, hu, by rw [hrs', hrs, List.append_assoc]⟩
  rw [List.length_append, runSteps_add_of_next hrun, hrun']

/-- A list of events is consumed part by part: the parts are consumed, and nothing else can have been. -/
theorem consumes_append_iff {s u : State} {es es' : List HostEvent} {rs : List Word} :
    Consumes s (es ++ es') rs u ↔
      ∃ (rs1 rs2 : List Word) (t : State), Consumes s es rs1 t ∧ Consumes t es' rs2 u ∧ rs = rs1 ++ rs2 := by
  constructor
  · intro h
    have ⟨rest, hin, _⟩ := h
    obtain ⟨rs1, t, ht, -⟩ := exists_consumes (hin.trans (List.append_assoc ..))
    have hint : t.inputs = es' ++ rest := by
      obtain ⟨rest', hin', _, rfl, _⟩ := ht
      exact List.append_cancel_left (hin'.symm.trans (hin.trans (List.append_assoc ..)))
    obtain ⟨rs2, u', hu, -⟩ := exists_consumes hint
    obtain ⟨hrs, rfl⟩ := h.det (ht.append hu)
    exact ⟨rs1, rs2, t, ht, hu, hrs⟩
  · rintro ⟨rs1, rs2, t, ht, hu, rfl⟩
    exact ht.append hu

/-- Settles O8, by induction on the events (`consumes_lockstep`), and because the parts of a run fix the whole. -/
theorem everyEventIsHandledInOrder : Obligations.EveryEventIsHandledInOrder :=
  ⟨fun _ _ _ hin => exists_consumes hin, fun _ _ _ _ _ => consumes_append_iff⟩

/-- Settles O22: side by side the two units answer alike, and neither can have run in another way. -/
theorem onlyTheTupleIsObservable : Obligations.OnlyTheTupleIsObservable := by
  intro es s1 s2 t1 t2 rs1 rs2 h h1 h2
  have ⟨rest1, hin1, _⟩ := h1
  have ⟨rest2, hin2, _⟩ := h2
  obtain ⟨rs, u1, u2, hu1, hu2, hsame, -⟩ := consumes_lockstep h hin1 hin2
  obtain ⟨rfl, rfl⟩ := h1.det hu1
  obtain ⟨rfl, rfl⟩ := h2.det hu2
  exact ⟨rfl, hsame⟩

end Sys2Proof.Machine
end

section
/-! The STATUS view (10_state.md R25), and who writes each element of the tuple (R21 to R24): first by instruction, then
over every event of the host. -/

namespace Sys2Proof.Machine

/-! ### The STATUS view -/

/-- STATUS bit by bit (R25). -/
theorem getLsbD_status (s : State) (n : Nat) :
    s.status.getLsbD n = if n = 0 then s.fed else if n = 1 then s.ckfail else decide (n = 2) && s.ill := by
  have h : s.status.getLsbD n = (decide (n < 32) &&
      (BitVec.ofBool s.ill ++ BitVec.ofBool s.ckfail ++ BitVec.ofBool s.fed).getLsbD n) := BitVec.getLsbD_setWidth ..
  rw [h, BitVec.getLsbD_append, BitVec.getLsbD_append]
  match n with
  | 0 => simp
  | 1 => simp
  | 2 => simp
  | n + 3 => simp

theorem status_bit_recorded (s : State) (e : ErrorEvent) : s.status.getLsbD e.code = s.recorded e := by
  cases e with
  | checksumMismatch => exact getLsbD_status s 1
  | illegalCommand => exact getLsbD_status s 2

/-- Settles O19. -/
theorem statusViewLayout : Obligations.StatusViewLayout := by
  refine ⟨fun s => ⟨getLsbD_status s 0, status_bit_recorded s, fun n hn => ?_⟩, rfl, rfl, fun s => ⟨rfl, rfl⟩, rfl⟩
  rw [getLsbD_status, if_neg (by omega), if_neg (by omega), decide_eq_false (by omega), Bool.false_and]

/-! ### By instruction -/

section
variable {i : Instr} {s t : State}

theorem exec_crc_frame (h : exec i s = .next t) (hinit : i ≠ .ckInit) (hfeed : ∀ b, i ≠ .ckFeed b)
    (hfeed2 : ∀ w, i ≠ .ckFeed2 w) : t.crc = s.crc := by
  cases i with
  | ckInit => exact absurd rfl hinit
  | ckFeed b => exact absurd rfl (hfeed b)
  | ckFeed2 w => exact absurd rfl (hfeed2 w)
  | fmtCheck g =>
    rw [exec_fmtCheck_eq] at h
    cases h
    rfl
  | _ =>
    cases h
    rfl

/-- The commands that do not read CRC do the same whatever it holds. -/
theorem exec_setCrc (h : exec i s = .next t) (hinit : i ≠ .ckInit) (hfeed : ∀ b, i ≠ .ckFeed b)
    (hfeed2 : ∀ w, i ≠ .ckFeed2 w) (hread : i ≠ .ckRead) (c : Byte) : exec i (s.setCrc c) = .next (t.setCrc c) := by
  cases i with
  | ckInit => exact absurd rfl hinit
  | ckFeed b => exact absurd rfl (hfeed b)
  | ckFeed2 w => exact absurd rfl (hfeed2 w)
  | ckRead => exact absurd rfl hread
  | fmtCheck g =>
    rw [exec_fmtCheck_eq] at h ⊢
    cases h
    rfl
  | _ =>
    cases h
    rfl

theorem exec_fed (h : exec i s = .next t) :
    t.fed = true ↔ (∃ b, i = .ckFeed b) ∨ (∃ w, i = .ckFeed2 w) ∨ s.fed = true ∧ i ≠ .ckInit := by
  cases i <;> cases h <;> simp

theorem exec_ckfail (h : exec i s = .next t) :
    t.ckfail = true ↔ (∃ g, i = .fmtCheck g ∧ groupMatches g = false) ∨ s.ckfail = true ∧ i ≠ .ckClr := by
  cases i <;> cases h <;> simp [or_comm]

theorem exec_ill (h : exec i s = .next t) : t.ill = true ↔ s.ill = true ∧ i ≠ .ckClr := by
  cases i <;> cases h <;> simp

theorem exec_keeps_consistent (h : exec i s = .next t) (hs : s.Consistent) : t.Consistent := by
  cases i with
  | ckInit =>
    cases h
    exact fun _ => rfl
  | ckFeed b | ckFeed2 w =>
    cases h
    intro hfed
    cases hfed
  | fmtCheck g =>
    rw [exec_fmtCheck_eq] at h
    cases h
    exact hs
  | _ =>
    cases h
    exact hs

end

/-! ### Over every event -/

section
variable {e : HostEvent} {s t : State}

theorem handle_encode (i : Instr) (s : State) : handle (.command (encode i)) s = exec i s :=
  execWord_legal (decode_encode i) s

theorem handle_resets (he : e.resets = true) (s : State) : handle e s = .next s.applyReset := by
  cases e with
  | command cmd => cases he
  | _ => rfl

theorem ne_command_of_resets (he : e.resets = true) (cmd : Word) : e ≠ .command cmd := by
  rintro rfl
  cases he

/-- `handle_cases` with the legal command words named by their instructions. -/
theorem handle_cases_encode (h : handle e s = .next t) :
    (∃ i, e = .command (encode i) ∧ exec i s = .next t) ∨
    (∃ cmd, e = .command cmd ∧ decode cmd = none ∧ t = s.raiseIllegalCommand) ∨
    (e.resets = true ∧ t = s.applyReset) := by
  obtain ⟨cmd, i, rfl, hd, hi⟩ | hrest := handle_cases h
  · exact .inl ⟨i, by rw [encode_of_decode hd], hi⟩
  · exact .inr hrest

theorem handle_crc_frame (h : handle e s = .next t) (he : e.resets = false) (hinit : e ≠ .command (encode .ckInit))
    (hfeed : ∀ b, e ≠ .command (encode (.ckFeed b))) (hfeed2 : ∀ w, e ≠ .command (encode (.ckFeed2 w))) :
    t.crc = s.crc := by
  obtain ⟨i, rfl, hi⟩ | ⟨cmd, -, -, rfl⟩ | ⟨hres, -⟩ := handle_cases_encode h
  · simp only [ne_eq, HostEvent.command.injEq, encode_inj] at hinit hfeed hfeed2
    exact exec_crc_frame hi hinit hfeed hfeed2
  · rfl
  · simp [he] at hres

/-- The events that do not read CRC do the same whatever it holds. -/
theorem handle_setCrc (h : handle e s = .next t) (he : e.resets = false) (hinit : e ≠ .command (encode .ckInit))
    (hfeed : ∀ b, e ≠ .command (encode (.ckFeed b))) (hfeed2 : ∀ w, e ≠ .command (encode (.ckFeed2 w)))
    (hread : e ≠ .command (encode .ckRead)) (c : Byte) : handle e (s.setCrc c) = .next (t.setCrc c) := by
  obtain ⟨i, rfl, hi⟩ | ⟨cmd, rfl, hd, rfl⟩ | ⟨hres, -⟩ := handle_cases_encode h
  · simp only [ne_eq, HostEvent.command.injEq, encode_inj] at hinit hfeed hfeed2 hread
    rw [handle_encode]
    exact exec_setCrc hi hinit hfeed hfeed2 hread c
  · exact execWord_illegal hd _
  · simp [he] at hres

theorem handle_fed (h : handle e s = .next t) :
    t.fed = true ↔ (∃ b, e = .command (encode (.ckFeed b))) ∨ (∃ w, e = .command (encode (.ckFeed2 w))) ∨
      s.fed = true ∧ e.resets = false ∧ e ≠ .command (encode .ckInit) := by
  obtain ⟨i, rfl, hi⟩ | ⟨cmd, rfl, hd, rfl⟩ | ⟨hres, rfl⟩ := handle_cases_encode h
  · simp [exec_fed hi, encode_inj, HostEvent.resets]
  · simp [ne_encode_of_illegal hd, HostEvent.resets]
  · simp [ne_command_of_resets hres, hres]

theorem handle_ckfail (h : handle e s = .next t) :
    t.ckfail = true ↔ (∃ g, e = .command (encode (.fmtCheck g)) ∧ groupMatches g = false) ∨
      s.ckfail = true ∧ e.resets = false ∧ e ≠ .command (encode .ckClr) := by
  obtain ⟨i, rfl, hi⟩ | ⟨cmd, rfl, hd, rfl⟩ | ⟨hres, rfl⟩ := handle_cases_encode h
  · simp [exec_ckfail hi, encode_inj, HostEvent.resets]
  · simp [ne_encode_of_illegal hd, HostEvent.resets]
  · simp [ne_command_of_resets hres, hres]

theorem handle_ill (h : handle e s = .next t) :
    t.ill = true ↔ (∃ cmd, e = .command cmd ∧ decode cmd = none) ∨
      s.ill = true ∧ e.resets = false ∧ e ≠ .command (encode .ckClr) := by
  obtain ⟨i, rfl, hi⟩ | ⟨cmd, rfl, hd, rfl⟩ | ⟨hres, rfl⟩ := handle_cases_encode h
  · simp [exec_ill hi, encode_inj, HostEvent.resets]
  · simp [hd]
  · simp [ne_command_of_resets hres, hres]

theorem handle_keeps_consistent (h : handle e s = .next t) (hs : s.Consistent) : t.Consistent := by
  obtain ⟨i, -, hi⟩ | ⟨cmd, -, -, rfl⟩ | ⟨-, rfl⟩ := handle_cases_encode h
  · exact exec_keeps_consistent hi hs
  · exact hs
  · exact fun _ => rfl

end

/-- Settles O20: a step is an event handled or, with nothing on the ports, no change. -/
theorem everyStepKeepsConsistency : Obligations.EveryStepKeepsConsistency := by
  intro s t hs h
  cases hin : s.inputs with
  | nil =>
    rw [step_nil hin] at h
    cases h
    exact hs
  | cons e rest => exact handle_keeps_consistent ((step_cons hin).symm.trans h) hs

/-- Settles O21. -/
theorem resetStateIsConsistent : Obligations.ResetStateIsConsistent := fun _ => rfl

/-- Settles O15: the writers and readers by their own meanings, every other event by `handle_crc_frame` and
`handle_setCrc`. -/
theorem crcIsWrittenOnlyByItsCommands : Obligations.CrcIsWrittenOnlyByItsCommands := by
  simp only [Obligations.CrcIsWrittenOnlyByItsCommands, ← encode_ckInit, ← encode_ckFeed, ← encode_ckFeed2,
    ← encode_ckRead]
  refine ⟨rfl, fun s t e rest hin h => ?_⟩
  have hstep : ∀ c : Byte, step { s with crc := c } = handle e ((s.setInputs rest).setCrc c) := fun c => step_cons hin
  rw [step_cons hin] at h
  refine ⟨?_, ?_, ?_, ?_, ?_⟩
  · rintro (he | rfl)
    · simp only [handle_resets he] at h hstep
      cases h
      exact ⟨rfl, hstep⟩
    · simp only [handle_encode] at h hstep
      cases h
      exact ⟨rfl, hstep⟩
  · rintro b rfl
    rw [handle_encode] at h
    cases h
    rfl
  · rintro w rfl
    rw [handle_encode] at h
    cases h
    rfl
  · rintro rfl
    rw [handle_encode] at h
    cases h
    rfl
  · intro he hinit hfeed hfeed2
    refine ⟨(handle_crc_frame h he hinit hfeed hfeed2 :), fun hread c => ?_⟩
    rw [hstep]
    exact handle_setCrc h he hinit hfeed hfeed2 hread c

/-- Settles O16, by `handle_fed`, and R22's invariant by `handle_keeps_consistent`. -/
theorem fedTellsWhetherBytesWentIn : Obligations.FedTellsWhetherBytesWentIn := by
  simp only [Obligations.FedTellsWhetherBytesWentIn, ← encode_ckInit, ← encode_ckFeed, ← encode_ckFeed2]
  refine ⟨rfl, fun s => getLsbD_status s 0, fun s t e rest hin h => ?_⟩
  rw [step_cons hin] at h
  exact ⟨(handle_fed h :), (handle_keeps_consistent h :)⟩

/-- Settles O17, by `handle_ckfail`. -/
theorem ckfailIsStickyUntilClrOrReset : Obligations.CkfailIsStickyUntilClrOrReset := by
  simp only [Obligations.CkfailIsStickyUntilClrOrReset, ← encode_fmtCheck, ← encode_ckClr]
  refine ⟨rfl, fun s => getLsbD_status s 1, fun s t e rest hin h => ?_⟩
  rw [step_cons hin] at h
  have hset := handle_ckfail h
  simp only [groupMatches_false_iff] at hset
  exact hset

/-- Settles O18, by `handle_ill`. -/
theorem illIsStickyUntilClrOrReset : Obligations.IllIsStickyUntilClrOrReset := by
  simp only [Obligations.IllIsStickyUntilClrOrReset, ← encode_ckClr]
  refine ⟨rfl, fun s => getLsbD_status s 2, fun s t e rest hin h => ?_⟩
  rw [step_cons hin] at h
  exact (handle_ill h :)

/-- Settles O23: the response and the verdict are functions of the operand. -/
theorem fmtDependsOnlyOnItsOperand : Obligations.FmtDependsOnlyOnItsOperand :=
  ⟨fun w => ⟨packResponse (groupOfWord w), exec_fmtPack w⟩,
    fun g => ⟨checkResponse g, !groupMatches g, exec_fmtCheck_eq g⟩⟩

/-- The table of 95_test_vectors.md section 2.1 lists the eight shifts of every byte in turn. -/
theorem stepTable_eq_map_crcShifts : stepTable = (List.range 256).map fun n => crcShifts 8 (BitVec.ofNat 8 n) := by
  decide +kernel

/-- Settles O27: the step shifts the XOR of its operands, and so does the table's entry. -/
theorem tableAndShiftFormsAgree : Obligations.TableAndShiftFormsAgree := by
  intro c b
  rw [stepTable_eq_map_crcShifts, List.getElem?_map, List.getElem?_range (c ^^^ b).isLt, Option.map_some,
    BitVec.ofNat_toNat, BitVec.setWidth_eq, crc8Step_eq_crcShifts]

end Sys2Proof.Machine
end

section
/-! Groups and payloads in wire order (20_memory.md R42 to R47): splitting a payload undoes concatenating groups. -/

namespace Sys2Proof.Machine

/-! ### The group of a word -/

@[simp] theorem groupBytes_groupOf (b0 b1 k : Byte) : groupBytes (groupOf b0 b1 k) = [b0, b1, k] := by
  simp [groupBytes]

theorem groupBytes_groupOfWord (w : Half) : groupBytes (groupOfWord w) = [hiByte w, loByte w, checksumOfWord w] :=
  groupBytes_groupOf ..

/-- FMT.PACK's group passes FMT.CHECK: its third byte is the checksum by definition. -/
@[simp] theorem groupMatches_groupOfWord (w : Half) : groupMatches (groupOfWord w) = true := by
  simp [groupMatches_iff, groupOfWord, checksumOfWord]

@[simp] theorem wordOfGroup_groupOfWord (w : Half) : wordOfGroup (groupOfWord w) = w := by
  simp [groupOfWord]

/-! ### The groups of a payload -/

/-- The groups concatenated are split again: each takes the first three bytes left. -/
@[simp] theorem groupsOfPayload_flatMap_groupBytes (gs : List Group) :
    groupsOfPayload (gs.flatMap groupBytes) = some gs := by
  induction gs with
  | nil => rfl
  | cons g gs ih =>
    calc groupsOfPayload ((g :: gs).flatMap groupBytes)
        = (groupsOfPayload (gs.flatMap groupBytes)).map
            (groupOf (groupByte0 g) (groupByte1 g) (groupCheckByte g) :: ·) := rfl
      _ = some (g :: gs) := by rw [ih, groupOf_bytes, Option.map_some]

theorem flatMap_groupBytes_of_groupsOfPayload {bs : List Byte} {gs : List Group}
    (h : groupsOfPayload bs = some gs) : gs.flatMap groupBytes = bs := by
  induction bs using groupsOfPayload.induct generalizing gs with
  | case1 =>
    cases h
    rfl
  | case2 b0 b1 k rest ih =>
    obtain ⟨gs', hrest, rfl⟩ := Option.map_eq_some_iff.1 h
    rw [List.flatMap_cons, groupBytes_groupOf, ih hrest]
    rfl
  | case3 bs hnil hcons => simp [groupsOfPayload] at h

/-- The host refuses a payload exactly when its length is no multiple of 3 (R47). -/
theorem isSome_groupsOfPayload_iff (bs : List Byte) :
    (groupsOfPayload bs).isSome = true ↔ bs.length % 3 = 0 := by
  induction bs using groupsOfPayload.induct with
  | case1 => simp [groupsOfPayload]
  | case2 b0 b1 k rest ih =>
    rw [groupsOfPayload, Option.isSome_map, ih, List.length_cons, List.length_cons, List.length_cons]
    omega
  | case3 bs hnil hcons =>
    match bs, hnil, hcons with
    | [_], _, _ => simp [groupsOfPayload]
    | [_, _], _, _ => simp [groupsOfPayload]
    | b0 :: b1 :: k :: rest, _, hcons => exact (hcons b0 b1 k rest rfl).elim

/-! ### The payload of words -/

/-- A payload is the concatenation of its words' groups (R44). -/
theorem payloadOfWords_eq_flatMap (ws : List Half) : payloadOfWords ws = (ws.map groupOfWord).flatMap groupBytes := by
  induction ws with
  | nil => rfl
  | cons w ws ih => rw [payloadOfWords, ih, List.map_cons, List.flatMap_cons]

theorem length_payloadOfWords (ws : List Half) : (payloadOfWords ws).length = Config.groupLength * ws.length := by
  induction ws with
  | nil => rfl
  | cons w ws ih =>
    rw [payloadOfWords, List.length_append, ih, groupBytes_groupOfWord, List.length_cons (as := ws), Nat.mul_succ,
      Nat.add_comm]
    rfl

theorem groupsOfPayload_payloadOfWords (ws : List Half) :
    groupsOfPayload (payloadOfWords ws) = some (ws.map groupOfWord) := by
  rw [payloadOfWords_eq_flatMap, groupsOfPayload_flatMap_groupBytes]

/-- Settles O43: a payload is its groups concatenated, and splitting undoes that in both directions. -/
theorem payloadsSplitIntoTheirGroups : Obligations.PayloadsSplitIntoTheirGroups :=
  ⟨fun ws => ⟨length_payloadOfWords ws, groupsOfPayload_payloadOfWords ws⟩,
    fun w => ⟨groupMatches_groupOfWord w, wordOfGroup_groupOfWord w, groupBytes_groupOfWord w⟩,
    isSome_groupsOfPayload_iff, fun _ _ => flatMap_groupBytes_of_groupsOfPayload⟩

end Sys2Proof.Machine
end

section
/-! The decoder as a function on command words (30_encoding.md R60 to R64): which words each command has, which words the
opcode table covers, and which words, and how many, are illegal. -/

namespace Sys2Proof

/-! ### The words of each command -/

/-- Settles O2, by `decode_encode` and `encode_of_decode`. -/
theorem decodeAndEncodeAgree : Obligations.DecodeAndEncodeAgree :=
  ⟨decode_encode, fun _ _ => encode_of_decode⟩

/-- Each command has one word, so a word is legal by being the word of a command. -/
theorem decode_eq_some_iff {cmd : Word} {i : Instr} : decode cmd = some i ↔ cmd = encode i :=
  ⟨fun h => (encode_of_decode h).symm, fun h => by rw [h, decode_encode]⟩

/-! ### The opcode table -/

/-- A mask that keeps the high bits of a word leaves the low ones free. -/
theorem and_highMask_eq_iff {m n : Nat} {x : BitVec (m + n)} {v : BitVec m} :
    x &&& (BitVec.allOnes m ++ 0#n) = v ++ 0#n ↔ ∃ y : BitVec n, x = v ++ y := by
  have hparts : x = x.extractLsb' n m ++ x.extractLsb' 0 n :=
    ((BitVec.extractLsb'_append_extractLsb'_eq_extractLsb' (Nat.zero_add n).symm).trans
      BitVec.extractLsb'_eq_self).symm
  constructor
  · intro h
    rw [hparts, BitVec.and_append, BitVec.and_allOnes, BitVec.and_zero, BitVec.append_left_inj] at h
    exact ⟨_, h ▸ hparts⟩
  · rintro ⟨y, rfl⟩
    rw [BitVec.and_append, BitVec.and_allOnes, BitVec.and_zero]

/-- Each row of the opcode table is the row of a command. -/
theorem mem_opcodeTable_iff {row : OpcodeRow} : row ∈ opcodeTable ↔ ∃ i, row = rowOf i := by
  constructor
  · intro h
    simp only [opcodeTable, List.mem_cons, List.not_mem_nil, or_false] at h
    rcases h with h | h | h | h | h | h | h | h <;> exact ⟨_, h⟩
  · rintro ⟨i, rfl⟩
    cases i <;> simp [opcodeTable, rowOf]

/-- A command's word is covered by its row: the operand stands where the mask is 0. -/
theorem encode_and_mask_rowOf (i : Instr) : encode i &&& (rowOf i).mask = (rowOf i).value := by
  cases i with
  | ckFeed b => exact encode_ckFeed b ▸ (and_highMask_eq_iff (m := 24) (v := 0x200000)).2 ⟨b, rfl⟩
  | ckFeed2 w => exact encode_ckFeed2 w ▸ (and_highMask_eq_iff (m := 16) (v := 0x3000)).2 ⟨w, rfl⟩
  | fmtPack w => exact encode_fmtPack w ▸ (and_highMask_eq_iff (m := 16) (v := 0x5000)).2 ⟨w, rfl⟩
  | fmtCheck g => exact encode_fmtCheck g ▸ (and_highMask_eq_iff (m := 8) (v := 0x60)).2 ⟨g, rfl⟩
  | _ => decide

/-- A row covers only words of its own commands: what the mask keeps is all of a command word but its operand. -/
theorem exists_encode_of_and_mask_rowOf {cmd : Word} {i : Instr} (h : cmd &&& (rowOf i).mask = (rowOf i).value) :
    ∃ j, rowOf j = rowOf i ∧ cmd = encode j := by
  cases i with
  | ckFeed b =>
    obtain ⟨b', rfl⟩ := (and_highMask_eq_iff (m := 24) (n := 8) (v := 0x200000)).1 h
    exact ⟨.ckFeed b', rfl, (encode_ckFeed b').symm⟩
  | ckFeed2 w =>
    obtain ⟨w', rfl⟩ := (and_highMask_eq_iff (m := 16) (n := 16) (v := 0x3000)).1 h
    exact ⟨.ckFeed2 w', rfl, (encode_ckFeed2 w').symm⟩
  | fmtPack w =>
    obtain ⟨w', rfl⟩ := (and_highMask_eq_iff (m := 16) (n := 16) (v := 0x5000)).1 h
    exact ⟨.fmtPack w', rfl, (encode_fmtPack w').symm⟩
  | fmtCheck g =>
    obtain ⟨g', rfl⟩ := (and_highMask_eq_iff (m := 8) (n := 24) (v := 0x60)).1 h
    exact ⟨.fmtCheck g', rfl, (encode_fmtCheck g').symm⟩
  | ckInit | ckRead | ckStat | ckClr => exact ⟨_, rfl, BitVec.and_allOnes.symm.trans h⟩

theorem and_mask_rowOf_iff {cmd : Word} {i : Instr} :
    cmd &&& (rowOf i).mask = (rowOf i).value ↔ ∃ j, rowOf j = rowOf i ∧ cmd = encode j := by
  refine ⟨exists_encode_of_and_mask_rowOf, ?_⟩
  rintro ⟨j, hrow, rfl⟩
  rw [← hrow]
  exact encode_and_mask_rowOf j

/-- Settles O3: the clauses by `decode_eq_some_iff`, the table by `and_mask_rowOf_iff`. -/
theorem decoderIsTheSpecsFunction : Obligations.DecoderIsTheSpecsFunction := by
  refine ⟨fun cmd => ?_, fun cmd => ?_, fun cmd i hd row hrow => ?_⟩
  · simp only [decode_eq_some_iff, encode_ckInit, encode_ckFeed, encode_ckFeed2, encode_ckRead, encode_fmtPack,
      encode_fmtCheck, encode_ckStat, encode_ckClr, implies_true, and_self]
  · rw [Option.ne_none_iff_exists']
    constructor
    · rintro ⟨i, hd⟩
      exact ⟨rowOf i, mem_opcodeTable_iff.2 ⟨i, rfl⟩, and_mask_rowOf_iff.2 ⟨i, rfl, decode_eq_some_iff.1 hd⟩⟩
    · rintro ⟨row, hrow, hcover⟩
      obtain ⟨i, rfl⟩ := mem_opcodeTable_iff.1 hrow
      obtain ⟨j, -, rfl⟩ := and_mask_rowOf_iff.1 hcover
      exact ⟨j, decode_encode j⟩
  · obtain ⟨k, rfl⟩ := mem_opcodeTable_iff.1 hrow
    obtain rfl := decode_eq_some_iff.1 hd
    rw [and_mask_rowOf_iff]
    simp [encode_inj, eq_comm]

/-! ### The illegal words -/

/-- Legal words are the words of commands, one each. -/
def legalWordEquiv : {cmd : Word // (decode cmd).isSome = true} ≃ Instr where
  toFun cmd := (decode cmd.1).get cmd.2
  invFun i := ⟨encode i, by simp⟩
  left_inv cmd := Subtype.ext (encode_of_decode (Option.some_get cmd.2).symm)
  right_inv i := by simp

/-- A command is its choice among the eight and its operand. -/
def instrEquiv : Instr ≃ Fin 4 ⊕ Byte ⊕ Half ⊕ Half ⊕ Group where
  toFun
    | .ckInit => .inl 0
    | .ckRead => .inl 1
    | .ckStat => .inl 2
    | .ckClr => .inl 3
    | .ckFeed b => .inr (.inl b)
    | .ckFeed2 w => .inr (.inr (.inl w))
    | .fmtPack w => .inr (.inr (.inr (.inl w)))
    | .fmtCheck g => .inr (.inr (.inr (.inr g)))
  invFun
    | .inl 0 => .ckInit
    | .inl 1 => .ckRead
    | .inl 2 => .ckStat
    | .inl 3 => .ckClr
    | .inr (.inl b) => .ckFeed b
    | .inr (.inr (.inl w)) => .ckFeed2 w
    | .inr (.inr (.inr (.inl w))) => .fmtPack w
    | .inr (.inr (.inr (.inr g))) => .fmtCheck g
  left_inv i := by cases i <;> rfl
  right_inv x := by
    rcases x with k | b | w | w | g
    · fin_cases k <;> rfl
    all_goals rfl

theorem card_bitVec (n : Nat) : Fintype.card (BitVec n) = 2 ^ n :=
  FinEnum.card_eq_fintypeCard.symm.trans (FinEnum.card_bitVec n)

theorem card_legalWords : (Finset.univ.filter fun cmd : Word => (decode cmd).isSome = true).card = 16908548 := by
  calc (Finset.univ.filter fun cmd : Word => (decode cmd).isSome = true).card
      = Fintype.card {cmd : Word // (decode cmd).isSome = true} := (Fintype.card_subtype _).symm
    _ = Fintype.card (Fin 4 ⊕ Byte ⊕ Half ⊕ Half ⊕ Group) := Fintype.card_congr (legalWordEquiv.trans instrEquiv)
    _ = 4 + (2 ^ 8 + (2 ^ 16 + (2 ^ 16 + 2 ^ 24))) := by simp only [Fintype.card_sum, Fintype.card_fin, card_bitVec]
    _ = 16908548 := by norm_num

/-- A word is illegal for its RSV or, RSV being 0, for its OP and operand bits. -/
theorem decode_eq_none_iff {cmd : Word} : decode cmd = none ↔ rsvField cmd ≠ 0 ∨ decodeOp cmd = none := by
  unfold decode
  split <;> simp_all

theorem decodeOp_eq_none_iff {cmd : Word} : decodeOp cmd = none ↔
    opField cmd = 0 ∨ 9 ≤ (opField cmd).toNat ∨
    (opField cmd = 1 ∨ opField cmd = 4 ∨ opField cmd = 7 ∨ opField cmd = 8) ∧ opdField cmd ≠ 0 ∨
    opField cmd = 2 ∧ aboveImm8 cmd ≠ 0 ∨ (opField cmd = 3 ∨ opField cmd = 5) ∧ aboveImm16 cmd ≠ 0 := by
  unfold decodeOp
  split
  case h_9 h1 h2 h3 h4 h5 h6 h7 h8 =>
    have hop : opField cmd = 0 ∨ 9 ≤ (opField cmd).toNat := by
      revert h1 h2 h3 h4 h5 h6 h7 h8
      generalize opField cmd = op
      decide +revert
    exact ⟨fun _ => hop.imp_right .inl, fun _ => rfl⟩
  all_goals rename_i hop; simp [hop, legalIf_eq_none]

/-- Settles O4: the classes by `decodeOp_eq_none_iff`, the count by `card_legalWords`. -/
theorem illegalWordsAreExactlyTheListed : Obligations.IllegalWordsAreExactlyTheListed := by
  refine ⟨fun cmd => ?_, fun cmd s rest hd hin => ?_, card_legalWords⟩
  · rw [decode_eq_none_iff, decodeOp_eq_none_iff]
    unfold opField rsvField opdField aboveImm8 aboveImm16
    tauto
  · rw [Machine.step_cons hin, Machine.handle_command, Machine.execWord_illegal hd]
    rfl

end Sys2Proof
end

section
/-! The response words: every command delivers one, with the fields of its layout (30_encoding.md R66). -/

namespace Sys2Proof.Machine

/-! ### The fields of a response word -/

/-- The response word with the fields of R66: bits 31:25 are 0, then bit 24 and three bytes. -/
def responseWord (flag : Bool) (b2 b1 b0 : Byte) : Word := 0#7 ++ BitVec.ofBool flag ++ b2 ++ b1 ++ b0

section
variable (flag : Bool) (b2 b1 b0 : Byte)

@[simp] theorem responseWord_byte0 : (responseWord flag b2 b1 b0).extractLsb' 0 8 = b0 :=
  BitVec.extractLsb'_append_eq_right

@[simp] theorem responseWord_byte1 : (responseWord flag b2 b1 b0).extractLsb' 8 8 = b1 :=
  (BitVec.extractLsb'_append_eq_of_le (by decide)).trans BitVec.extractLsb'_append_eq_right

@[simp] theorem responseWord_byte2 : (responseWord flag b2 b1 b0).extractLsb' 16 8 = b2 :=
  (BitVec.extractLsb'_append_eq_of_le (by decide)).trans <|
    (BitVec.extractLsb'_append_eq_of_le (by decide)).trans BitVec.extractLsb'_append_eq_right

/-- Bits 31:24, above the three bytes. -/
theorem responseWord_top : (responseWord flag b2 b1 b0).extractLsb' 24 8 = 0#7 ++ BitVec.ofBool flag :=
  (BitVec.extractLsb'_append_eq_of_le (by decide)).trans <|
    (BitVec.extractLsb'_append_eq_of_le (by decide)).trans BitVec.extractLsb'_append_eq_left

@[simp] theorem responseWord_flag : (responseWord flag b2 b1 b0)[24] = flag :=
  calc (responseWord flag b2 b1 b0)[24]
      = ((responseWord flag b2 b1 b0).extractLsb' 24 8).getLsbD 0 := by simp
    _ = flag := by rw [responseWord_top]; cases flag <;> rfl

@[simp] theorem responseWord_zeros : (responseWord flag b2 b1 b0).extractLsb' 25 7 = 0 :=
  (BitVec.extractLsb'_append_eq_of_le (by decide)).trans <|
    (BitVec.extractLsb'_append_eq_of_le (by decide)).trans <|
      (BitVec.extractLsb'_append_eq_of_le (by decide)).trans BitVec.extractLsb'_append_eq_left

@[simp] theorem responseWord_bit31 : (responseWord flag b2 b1 b0)[31] = false :=
  calc (responseWord flag b2 b1 b0)[31]
      = ((responseWord flag b2 b1 b0).extractLsb' 25 7).getLsbD 6 := by rw [BitVec.getLsbD_extractLsb']; rfl
    _ = false := by rw [responseWord_zeros]; rfl

@[simp] theorem responseWord_byte_zeros : (responseWord false 0#8 0#8 b0).extractLsb' 8 17 = 0 :=
  BitVec.extractLsb'_append_eq_of_le (by decide)
end

theorem toNat_append_assoc {m n k : Nat} (x : BitVec m) (y : BitVec n) (z : BitVec k) :
    (x ++ (y ++ z)).toNat = (x ++ y ++ z).toNat := by
  rw [BitVec.append_assoc, BitVec.toNat_cast]

theorem byteResponse_eq (b : Byte) : byteResponse b = responseWord false 0 0 b := by
  simp [byteResponse, BitVec.setWidth_eq_append, responseWord]

theorem packResponse_eq (b0 b1 k : Byte) : packResponse (groupOf b0 b1 k) = responseWord false b0 b1 k :=
  calc packResponse (groupOf b0 b1 k)
      = 0#8 ++ (b0 ++ b1) ++ k := BitVec.eq_of_toNat_eq (toNat_append_assoc 0#8 (b0 ++ b1) k)
    _ = 0#8 ++ b0 ++ b1 ++ k := congrArg (· ++ k) (BitVec.eq_of_toNat_eq (toNat_append_assoc 0#8 b0 b1))

theorem checkResponse_eq (g : Group) : checkResponse g =
    responseWord (groupMatches g) (computedChecksum g) (groupByte0 g) (groupByte1 g) :=
  BitVec.eq_of_toNat_eq (toNat_append_assoc (0#7 ++ BitVec.ofBool (groupMatches g) ++ computedChecksum g) _ _)

theorem status_eq (s : State) : s.status = responseWord false 0 0
    (0#5 ++ BitVec.ofBool s.ill ++ BitVec.ofBool s.ckfail ++ BitVec.ofBool s.fed) := by
  unfold State.status
  generalize s.ill = ill, s.ckfail = ckfail, s.fed = fed
  decide +revert

theorem packResponse_groupOfWord_eq (w : Half) : packResponse (groupOfWord w) =
    responseWord false (w.extractLsb' 8 8) (w.extractLsb' 0 8) (crc8 [w.extractLsb' 8 8, w.extractLsb' 0 8]) :=
  packResponse_eq _ _ _

/-! ### The response to a command word -/

/-- Settles O9: each command's response is the `responseWord` of its layout. -/
theorem responseWordsFollowTheLayouts : Obligations.ResponseWordsFollowTheLayouts := by
  intro s cmd rest hin
  rw [step_cons hin, handle_command]
  cases hd : decode cmd with
  | none => exact ⟨_, illegalResponse, execWord_illegal hd _, rfl, fun _ => rfl, fun i hi => by cases hi⟩
  | some i =>
    simp only [execWord_legal hd, reduceCtorEq, false_imp_iff, true_and, Option.some.injEq, forall_eq']
    cases i with
    | ckInit | ckClr => exact ⟨_, _, rfl, rfl, rfl, rfl, rfl⟩
    | ckFeed b | ckFeed2 w | ckRead => exact ⟨_, _, rfl, rfl, by simp [byteResponse_eq]⟩
    | fmtPack w => exact ⟨_, _, rfl, rfl, by simp [packResponse_groupOfWord_eq]⟩
    | fmtCheck g => exact ⟨_, _, exec_fmtCheck_eq g _, rfl, by
        simp [checkResponse_eq, groupMatches, computedChecksum, groupByte0, groupByte1, groupCheckByte]⟩
    | ckStat => exact ⟨_, _, rfl, rfl, by simp [status_eq]⟩

end Sys2Proof.Machine
end

section
/-! The assembler (30_encoding.md R68, R69): what it accepts, and the words it gives. -/

namespace Sys2Proof.Machine

/-! ### Statements -/

/-- The word of a command with an operand field of `k` bits, from the number the programmer wrote for the operand. -/
def encodeImmediate {k : Nat} (f : BitVec k → Instr) (n : Nat) : Option Word :=
  if n < 2 ^ k then some (encode (f (BitVec.ofNat k n))) else none

section
variable {k : Nat} {f : BitVec k → Instr} {n : Nat} {cmd : Word}

theorem encodeImmediate_eq_none_iff : encodeImmediate f n = none ↔ 2 ^ k ≤ n := by
  simp [encodeImmediate]

@[simp] theorem encodeImmediate_toNat (x : BitVec k) : encodeImmediate f x.toNat = some (encode (f x)) := by
  simp [encodeImmediate, x.isLt]

/-- A word comes from an operand that is the number itself. -/
theorem decode_of_encodeImmediate (h : encodeImmediate f n = some cmd) :
    ∃ x : BitVec k, x.toNat = n ∧ decode cmd = some (f x) := by
  have hn : n < 2 ^ k := by
    by_contra hge
    rw [encodeImmediate_eq_none_iff.2 (Nat.le_of_not_lt hge)] at h
    cases h
  have hx : (BitVec.ofNat k n).toNat = n := by rw [BitVec.toNat_ofNat, Nat.mod_eq_of_lt hn]
  rw [← hx, encodeImmediate_toNat, Option.some.injEq] at h
  exact ⟨_, hx, h ▸ decode_encode _⟩
end

@[simp] theorem assembleStatement_ckFeed (n : Nat) : assembleStatement (.ckFeed n) = encodeImmediate .ckFeed n := by
  simp [assembleStatement, encodeImmediate, Statement.wellFormed, fits]

@[simp] theorem assembleStatement_ckFeed2 (n : Nat) : assembleStatement (.ckFeed2 n) = encodeImmediate .ckFeed2 n := by
  simp [assembleStatement, encodeImmediate, Statement.wellFormed, fits]

@[simp] theorem assembleStatement_fmtPack (n : Nat) : assembleStatement (.fmtPack n) = encodeImmediate .fmtPack n := by
  simp [assembleStatement, encodeImmediate, Statement.wellFormed, fits]

@[simp] theorem assembleStatement_fmtCheck (n : Nat) :
    assembleStatement (.fmtCheck n) = encodeImmediate .fmtCheck n := by
  simp [assembleStatement, encodeImmediate, Statement.wellFormed, fits]

theorem assembleStatement_word (n : Nat) :
    assembleStatement (.word n) = if n < 2 ^ 32 then some (BitVec.ofNat 32 n) else none := by
  simp [assembleStatement, Statement.wellFormed, fits]

/-- Settles O44: every immediate is assembled by `encodeImmediate`, a `.word` by itself. -/
theorem assemblerNeverTruncates : Obligations.AssemblerNeverTruncates := by
  simp only [Obligations.AssemblerNeverTruncates, assembleStatement_ckFeed, assembleStatement_ckFeed2,
    assembleStatement_fmtPack, assembleStatement_fmtCheck, encodeImmediate_eq_none_iff]
  refine ⟨fun n => ⟨.rfl, .rfl, .rfl, .rfl⟩, fun n cmd => ⟨decode_of_encodeImmediate, decode_of_encodeImmediate,
    decode_of_encodeImmediate, decode_of_encodeImmediate⟩, fun cmd => ?_, fun n hn => ?_, ?_⟩
  · rw [assembleStatement_word, if_pos cmd.isLt, BitVec.ofNat_toNat, BitVec.setWidth_eq]
  · rw [assembleStatement_word, if_neg (Nat.not_lt.2 hn)]
  · exact ⟨rfl, rfl, rfl, rfl⟩

/-! ### Pseudo-instructions -/

theorem isSome_assembleStatement (st : Statement) : (assembleStatement st).isSome = st.wellFormed := by
  unfold assembleStatement
  split
  next h => cases st <;> exact h.symm
  next h => exact (Bool.eq_false_iff.2 h).symm

/-- A list of statements is accepted as a whole exactly when every statement is. -/
theorem isSome_assembleStatements (sts : List Statement) :
    (assembleStatements sts).isSome = sts.all Statement.wellFormed := by
  induction sts with
  | nil => rfl
  | cons st sts ih =>
    rw [List.all_cons, ← ih, ← isSome_assembleStatement, assembleStatements]
    cases assembleStatement st <;> cases assembleStatements sts <;> rfl

theorem all_wellFormed_expandPseudo {p : Pseudo} (h : p.wellFormed = true) :
    (expandPseudo p).all Statement.wellFormed = true := by
  cases p <;> simp_all [Pseudo.wellFormed, expandPseudo, Statement.wellFormed]

theorem isSome_assemblePseudo (p : Pseudo) : (assemblePseudo p).isSome = p.wellFormed := by
  unfold assemblePseudo
  split
  next h => rw [isSome_assembleStatements, all_wellFormed_expandPseudo h, h]
  next h => exact (Bool.eq_false_iff.2 h).symm

/-- The statement a programmer writes for a command. -/
def statementOf : Instr → Statement
  | .ckInit => .ckInit
  | .ckFeed b => .ckFeed b.toNat
  | .ckFeed2 w => .ckFeed2 w.toNat
  | .ckRead => .ckRead
  | .fmtPack w => .fmtPack w.toNat
  | .fmtCheck g => .fmtCheck g.toNat
  | .ckStat => .ckStat
  | .ckClr => .ckClr

@[simp] theorem assembleStatement_statementOf (i : Instr) : assembleStatement (statementOf i) = some (encode i) := by
  cases i with
  | ckFeed b | ckFeed2 w | fmtPack w | fmtCheck g => simp [statementOf]
  | _ => rfl

theorem assembleStatements_map_statementOf (is : List Instr) :
    assembleStatements (is.map statementOf) = some (is.map encode) := by
  induction is with
  | nil => rfl
  | cons i is ih => rw [List.map_cons, assembleStatements, assembleStatement_statementOf, ih]; rfl

/-- A pseudo-instruction that stands for the statements of the commands `is` gives the words of `is`. -/
theorem assemblePseudo_of_expandPseudo {p : Pseudo} {is : List Instr} {cmds : List Word}
    (hp : expandPseudo p = is.map statementOf) (h : assemblePseudo p = some cmds) :
    p.wellFormed = true ∧ cmds = is.map encode := by
  have hwf : p.wellFormed = true := by rw [← isSome_assemblePseudo, h]; rfl
  rw [assemblePseudo, if_pos hwf, hp, assembleStatements_map_statementOf] at h
  exact ⟨hwf, (Option.some.inj h).symm⟩

/-! ### Issuing the words -/

/-- The command words of `is`, issued by the host. -/
def eventsOf (is : List Instr) : List HostEvent := (is.map encode).map .command

theorem eventsOf_append (is js : List Instr) : eventsOf (is ++ js) = eventsOf is ++ eventsOf js := by
  simp [eventsOf]

/-- A command, then the others. -/
theorem consumes_eventsOf_cons {i : Instr} {is : List Instr} {s t u : State} {r : Word} {rs : List Word}
    {ins : List HostEvent} (hin : s.inputs = .command (encode i) :: ins)
    (h : (s.setInputs ins).Delivers (exec i (s.setInputs ins)) [r] t) (ht : Consumes t (eventsOf is) rs u) :
    Consumes s (eventsOf (i :: is)) (r :: rs) u :=
  State.Delivers.consumes_cons (rs := [r]) hin (by rwa [handle_encode]) ht

theorem consumes_eventsOf_singleton {i : Instr} {s t : State} {r : Word} {ins : List HostEvent}
    (hin : s.inputs = .command (encode i) :: ins)
    (h : (s.setInputs ins).Delivers (exec i (s.setInputs ins)) [r] t) : Consumes s (eventsOf [i]) [r] t :=
  consumes_eventsOf_cons (is := []) hin h (consumes_nil t)

/-- Commands that record at most a mismatch and answer by their operand alone, as FMT.PACK and FMT.CHECK do, one for
each entry of a list (41_frame.md R100, R101). -/
theorem consumes_eventsOf_map {α : Type} {f : α → Instr} {bad : α → Bool} {r : α → Word}
    (hexec : ∀ a s, exec (f a) s = .next
      { s with ckfail := s.ckfail || bad a, responses := s.responses ++ [r a] })
    {as : List α} {rest : List HostEvent} {s : State} (hin : s.inputs = eventsOf (as.map f) ++ rest) :
    Consumes s (eventsOf (as.map f)) (as.map r)
      { s with ckfail := s.ckfail || as.any bad, inputs := rest, responses := s.responses ++ as.map r } := by
  induction as generalizing s with
  | nil =>
    obtain rfl : s.inputs = rest := hin
    simpa using! consumes_nil s
  | cons a as ih =>
    have htail := ih (s := { s with
      ckfail := s.ckfail || bad a, inputs := eventsOf (as.map f) ++ rest, responses := s.responses ++ [r a] }) rfl
    simp only [Bool.or_assoc, List.append_assoc] at htail
    exact consumes_eventsOf_cons hin ⟨hexec a _, rfl, rfl⟩ htail

/-! ### The results of the pseudo-instructions -/

/-- `ck.sumw` starts a new checksum and feeds the word, so its second response is the word's checksum. -/
theorem exists_consumes_ckSumw {w : Half} {s : State} {rest : List HostEvent}
    (hin : s.inputs = eventsOf [.ckInit, .ckFeed2 w] ++ rest) :
    ∃ t, Consumes s (eventsOf [.ckInit, .ckFeed2 w]) [zeroResponse, byteResponse (checksumOfWord w)] t :=
  ⟨_, consumes_eventsOf_cons hin ⟨rfl, rfl, rfl⟩ (consumes_eventsOf_singleton rfl ⟨rfl, rfl, rfl⟩)⟩

/-- `fmt.packn` gives the packed group of each word. -/
theorem exists_consumes_fmtPackn {ws : List Half} {s : State} {rest : List HostEvent}
    (hin : s.inputs = eventsOf (ws.map .fmtPack) ++ rest) :
    ∃ t, Consumes s (eventsOf (ws.map .fmtPack)) (ws.map fun w => packResponse (groupOfWord w)) t :=
  ⟨_, consumes_eventsOf_map (bad := fun _ => false) (fun w s => by rw [exec_fmtPack, Bool.or_false]; rfl) hin⟩

/-- `fmt.checkn` clears the sticky flags, so the STATUS it ends with shows a mismatch of its own groups only. -/
theorem exists_consumes_fmtCheckn {gs : List Group} {s : State} {rest : List HostEvent}
    (hin : s.inputs = eventsOf (.ckClr :: (gs.map .fmtCheck ++ [.ckStat])) ++ rest) :
    ∃ rs r t, Consumes s (eventsOf (.ckClr :: (gs.map .fmtCheck ++ [.ckStat]))) (rs ++ [r]) t ∧ t.ill = false ∧
      r.getLsbD 1 = gs.any (!groupMatches ·) := by
  have hclr : ∀ u : State, u.Delivers (exec .ckClr u) [zeroResponse] (u.clearErrors.respond zeroResponse) :=
    fun _ => ⟨rfl, rfl, rfl⟩
  have hrest : eventsOf (gs.map .fmtCheck ++ [.ckStat]) ++ rest =
      eventsOf (gs.map .fmtCheck) ++ (eventsOf [.ckStat] ++ rest) := by
    rw [eventsOf_append, List.append_assoc]
  have hchecks := consumes_eventsOf_map exec_fmtCheck_eq ((hclr (s.setInputs _)).inputs.trans hrest)
  have htail := hchecks.append (consumes_eventsOf_singleton rfl ⟨exec_ckStat _, rfl, rfl⟩)
  rw [← eventsOf_append] at htail
  refine ⟨zeroResponse :: gs.map checkResponse, _, _, consumes_eventsOf_cons hin (hclr _) htail, rfl, ?_⟩
  rw [getLsbD_status]
  exact Bool.false_or _

/-- The payload's bytes are read off the responses of FMT.PACK, three from each (R100). -/
theorem flatMap_packResponse_bytes (ws : List Half) :
    (ws.map fun w => packResponse (groupOfWord w)).flatMap
      (fun r => [r.extractLsb' 16 8, r.extractLsb' 8 8, r.extractLsb' 0 8]) = payloadOfWords ws := by
  rw [payloadOfWords_eq_flatMap, List.flatMap_map, List.flatMap_map]
  simp [packResponse_groupOfWord_eq, groupBytes_groupOfWord, hiByte, loByte, checksumOfWord]

/-- Settles O45: each pseudo-instruction gives the words of its commands, and issuing those gives its results. -/
theorem pseudoInstructionsGiveTheirResults : Obligations.PseudoInstructionsGiveTheirResults := by
  refine ⟨fun n => rfl, fun n ns => ⟨rfl, rfl⟩, fun p => ?_, fun w cmds s rest h hin => ?_,
    fun w ws cmds s rest h hin => ?_, fun g gs cmds s rest h hin => ?_⟩
  · rw [← isSome_assemblePseudo, Option.isSome_iff_exists]
  · obtain ⟨-, rfl⟩ := assemblePseudo_of_expandPseudo (is := [.ckInit, .ckFeed2 w]) rfl h
    obtain ⟨t, ht⟩ := exists_consumes_ckSumw hin
    exact ⟨_, _, t, ht, by rw [byteResponse_eq, responseWord_byte0]; rfl⟩
  · have hp : expandPseudo (.fmtPackn w.toNat (ws.map BitVec.toNat)) = ((w :: ws).map .fmtPack).map statementOf := by
      simp [expandPseudo, statementOf]
    obtain ⟨hwf, rfl⟩ := assemblePseudo_of_expandPseudo hp h
    obtain ⟨t, ht⟩ := exists_consumes_fmtPackn hin
    refine ⟨_, t, ht, flatMap_packResponse_bytes _, ?_⟩
    have hlen : ws.length < 3 := by
      rw [Pseudo.wellFormed, Bool.and_eq_true, List.length_map] at hwf
      exact of_decide_eq_true hwf.2
    rw [length_payloadOfWords, List.length_cons, Config.groupLength]
    omega
  · have hp : expandPseudo (.fmtCheckn g.toNat (gs.map BitVec.toNat)) =
        (.ckClr :: ((g :: gs).map .fmtCheck ++ [.ckStat])).map statementOf := by
      simp [expandPseudo, statementOf]
    obtain ⟨-, rfl⟩ := assemblePseudo_of_expandPseudo hp h
    obtain ⟨rs, r, t, ht, hill, hr⟩ := exists_consumes_fmtCheckn hin
    refine ⟨rs, r, t, ht, hill, ?_⟩
    simp only [hr, List.any_eq_false, Bool.not_eq_true, Bool.not_eq_false', groupMatches_iff]
    rfl

end Sys2Proof.Machine
end

section
/-! The algebra of the checksum step (40_checksum.md R80 to R82): it shifts the XOR of its operands, is linear over GF(2)
and is a bijection in each operand. -/

namespace Sys2Proof.Machine

/-- Settles O24: the step is the XOR and the eight iterations by definition, and the trace is evaluated. -/
theorem crcStepFollowsThePseudocode : Obligations.CrcStepFollowsThePseudocode :=
  ⟨fun _ _ => rfl, by decide +kernel⟩

theorem crc8_concat (bs : List Byte) (b : Byte) : crc8 (bs ++ [b]) = crc8Step (crc8 bs) b :=
  crcFrom_append ..

/-- Settles O25, by `crc8_concat` (the empty list needs no exception). -/
theorem checksumIsTheFoldFromInit : Obligations.ChecksumIsTheFoldFromInit :=
  ⟨fun _ => rfl, fun bs b _ => crc8_concat bs b, by decide +kernel⟩

/-! ### Bijections -/

/-- The polynomial has bit 0 set, so a shift that loses a bit shows it there. -/
theorem crcShift_eq_zero {x : Byte} (h : crcShift x = 0#8) : x = 0#8 := by
  decide +revert

theorem crcShift_injective : Function.Injective crcShift := fun x y h =>
  BitVec.xor_eq_zero_iff.1 (crcShift_eq_zero (by rw [crcShift_xor, h, BitVec.xor_self]))

theorem crcShifts_injective (n : Nat) : Function.Injective (crcShifts n) := by
  induction n with
  | zero => exact Function.injective_id
  | succ n ih => exact ih.comp crcShift_injective

theorem crc8Step_right_injective (c : Byte) : Function.Injective (crc8Step c) := fun _ _ h =>
  (BitVec.xor_right_inj c).1 (crcShifts_injective _ h)

theorem crc8Step_left_injective (b : Byte) : Function.Injective fun c => crc8Step c b := fun _ _ h =>
  (BitVec.xor_left_inj b).1 (crcShifts_injective _ h)

theorem crc8_pair_right_injective (a : Byte) : Function.Injective fun b => crc8 [a, b] :=
  crc8Step_right_injective _

theorem crc8_pair_left_injective (b : Byte) : Function.Injective fun a => crc8 [a, b] :=
  (crc8Step_left_injective b).comp (crc8Step_right_injective 0xFF)

/-! ### The step from 0x00, called T in R82 -/

theorem crc8Step_eq_crc8Step_zero (c b : Byte) : crc8Step c b = crc8Step 0x00 (c ^^^ b) := by
  simp [crc8Step_eq_crcShifts]

theorem crc8Step_zero_xor (x y : Byte) : crc8Step 0x00 (x ^^^ y) = crc8Step 0x00 x ^^^ crc8Step 0x00 y := by
  simp [crc8Step_eq_crcShifts, crcShifts_xor]

theorem crc8Step_zero_eq_self_iff (x : Byte) : crc8Step 0x00 x = x ↔ x = 0x00 ∨ x = 0xEF := by
  decide +kernel +revert

/-- A byte fed into a register that holds it leaves nothing to shift. -/
@[simp] theorem crc8Step_self (c : Byte) : crc8Step c c = 0x00 := by
  simp [crc8Step_eq_crcShifts]

theorem crc8_pair_eq_crc8Step_zero (a b : Byte) :
    crc8 [a, b] = crc8Step 0x00 (crc8Step 0x00 (0xFF ^^^ a) ^^^ b) := by
  rw [crc8_pair, crc8Step_eq_crc8Step_zero _ b, crc8Step_eq_crc8Step_zero 0xFF a]

/-! ### The order of two bytes -/

theorem xor_eq_xor_iff {n : Nat} {x y a b : BitVec n} : x ^^^ b = y ^^^ a ↔ x ^^^ y = a ^^^ b := by
  have hcross : x ^^^ b ^^^ (y ^^^ a) = x ^^^ y ^^^ (a ^^^ b) := by ac_rfl
  rw [← BitVec.xor_eq_zero_iff, hcross, BitVec.xor_eq_zero_iff]

theorem xor_eq_iff_eq_xor {n : Nat} {a b c : BitVec n} : a ^^^ b = c ↔ b = a ^^^ c := by
  rw [← BitVec.xor_right_inj a, ← BitVec.xor_assoc, BitVec.xor_self, BitVec.zero_xor]

/-- The order does not matter exactly when T fixes the XOR of the bytes: by injectivity the outer step drops out, and by
linearity the initial value does. -/
theorem crc8_swap_iff (a b : Byte) : crc8 [a, b] = crc8 [b, a] ↔ crc8Step 0x00 (a ^^^ b) = a ^^^ b := by
  rw [crc8_pair_eq_crc8Step_zero, crc8_pair_eq_crc8Step_zero, (crc8Step_right_injective 0x00).eq_iff, xor_eq_xor_iff,
    ← crc8Step_zero_xor]
  have hinit : 0xFF ^^^ a ^^^ (0xFF ^^^ b) = a ^^^ b := xor_eq_xor_iff.1 (by ac_rfl)
  rw [hinit]

theorem crc8_swap_iff_eq (a b : Byte) : crc8 [a, b] = crc8 [b, a] ↔ a = b ∨ a ^^^ b = 0xEF := by
  have hsame : a ^^^ b = 0x00 ↔ a = b := BitVec.xor_eq_zero_iff
  rw [crc8_swap_iff, crc8Step_zero_eq_self_iff, hsame]

/-- For each first byte there are two second ones that may change places with it. -/
theorem filter_crc8_swap (a : Byte) :
    (Finset.univ.filter fun b : Byte => crc8 [a, b] = crc8 [b, a]) = {a, a ^^^ 0xEF} := by
  ext b
  rw [Finset.mem_filter_univ, crc8_swap_iff_eq, xor_eq_iff_eq_xor, Finset.mem_insert, Finset.mem_singleton,
    eq_comm (a := a)]

theorem card_crc8_swap :
    (Finset.univ.filter fun p : Byte × Byte => crc8 [p.1, p.2] = crc8 [p.2, p.1]).card = 512 := by
  have hne (a : Byte) : a ≠ a ^^^ 0xEF := by
    rw [ne_eq, ← xor_eq_iff_eq_xor, BitVec.xor_self]
    decide
  calc (Finset.univ.filter fun p : Byte × Byte => crc8 [p.1, p.2] = crc8 [p.2, p.1]).card
      = ∑ a : Byte, (Finset.univ.filter fun b : Byte => crc8 [a, b] = crc8 [b, a]).card := by
        simp only [Finset.card_filter, Fintype.sum_prod_type]
    _ = ∑ _a : Byte, 2 := Finset.sum_congr rfl fun a _ => by rw [filter_crc8_swap, Finset.card_pair (hne a)]
    _ = 2 ^ 8 * 2 := by rw [Finset.sum_const, Finset.card_univ, card_bitVec, smul_eq_mul]
    _ = 512 := by norm_num

/-- Settles O26, each law by its lemma; an injection of the bytes into themselves is a bijection. -/
theorem checksumAlgebraLaws : Obligations.ChecksumAlgebraLaws :=
  ⟨crc8Step_eq_crc8Step_zero, crc8Step_zero_xor, crc8Step_self 0x00,
    (crc8Step_right_injective 0x00).bijective_of_finite, crc8Step_zero_eq_self_iff, crc8_pair_eq_crc8Step_zero,
    fun a => (crc8_pair_right_injective a).bijective_of_finite,
    fun b => (crc8_pair_left_injective b).bijective_of_finite, fun a b =>
    ⟨crc8_swap_iff a b, crc8_swap_iff_eq a b⟩, card_crc8_swap⟩

end Sys2Proof.Machine
end

section
/-! The accumulator's commands (40_checksum.md R83 to R86), and the checksum they leave after any list of command words
(R87). -/

namespace Sys2Proof.Machine

/-! ### The commands -/

/-- Settles O29: whole by definition, so from a fresh checksum nothing but the response is new. -/
theorem initStartsNewChecksum : Obligations.InitStartsNewChecksum := by
  refine ⟨encode_ckInit ▸ decode_encode _, fun s => rfl, fun s hcrc hfed => ?_, fun s t h => ?_⟩
  · rw [exec_ckInit, Host.Outcome.next.injEq]
    apply State.eq_of_fields <;> simp [hcrc, hfed, zeroResponse]
  · cases h
    rfl

/-- Settles O30: the corner case by `crc8Step_self`, the examples evaluated. -/
theorem feedAccumulatesOneByte : Obligations.FeedAccumulatesOneByte := by
  refine ⟨fun b => encode_ckFeed b ▸ decode_encode _, fun b s => rfl, fun s => ?_, by decide +kernel⟩
  rw [exec_ckFeed, crc8Step_self, Host.Outcome.next.injEq]
  apply State.eq_of_fields <;> simp [byteResponse]

/-- From the initial value CK.FEED2 gives the checksum of its word. -/
theorem exec_ckFeed2_of_init {s : State} (hs : s.crc = 0xFF) (w : Half) : exec (.ckFeed2 w) s = .next
    { s with
      crc := checksumOfWord w
      fed := true
      responses := s.responses ++ [byteResponse (checksumOfWord w)] } := by
  rw [exec_ckFeed2, Host.Outcome.next.injEq]
  apply State.eq_of_fields <;> simp [hs, checksumOfWord, crc8_eq_crcFrom]

/-- Settles O31: the examples by the checksums of their words. -/
theorem feed2AccumulatesWordBigEndian : Obligations.Feed2AccumulatesWordBigEndian := by
  refine ⟨fun w => encode_ckFeed2 w ▸ decode_encode _, fun w s => rfl, fun w s t u ht hu => ?_, fun s hs => ?_⟩
  · cases ht
    cases hu
    rfl
  · have hFF00 : checksumOfWord 0xFF00 = 0x00 := by decide +kernel
    have hFFEF : checksumOfWord 0xFFEF = 0xEF := by decide +kernel
    have hBEEF : checksumOfWord 0xBEEF = 0x92 := by decide +kernel
    rw [exec_ckFeed2_of_init hs, exec_ckFeed2_of_init hs, exec_ckFeed2_of_init hs, hFF00, hFFEF, hBEEF]
    exact ⟨rfl, rfl, rfl⟩

/-- Settles O32: nothing is written, so the next reading is the same; R22's invariant gives the value with FED = 0. -/
theorem readReturnsRunningRegister : Obligations.ReadReturnsRunningRegister := by
  refine ⟨encode_ckRead ▸ decode_encode _, fun s => rfl, fun s hs hfed => ?_, fun s t h => ?_⟩
  · have hresp : byteResponse s.crc = 0xFF := by rw [hs hfed]; rfl
    rw [exec_ckRead, hresp]
    rfl
  · cases h
    rfl

/-! ### The bytes a command word feeds -/

theorem extractLsb'_high_eq_iff {m n : Nat} {x : BitVec (m + n)} {v : BitVec m} :
    x.extractLsb' n m = v ↔ ∃ y : BitVec n, x = v ++ y := by
  constructor
  · rintro rfl
    exact ⟨_, BitVec.extractLsb'_append_extractLsb'.symm⟩
  · rintro ⟨y, rfl⟩
    exact BitVec.extractLsb'_append_eq_left

/-- A word is tested for CK.FEED by its bits 31:8. -/
theorem isFeed_iff (cmd : Word) : cmd.extractLsb' 8 24 = 0x200000#24 ↔ ∃ b, cmd = encode (.ckFeed b) := by
  simp only [encode_ckFeed]
  exact extractLsb'_high_eq_iff (m := 24) (n := 8)

/-- A word is tested for CK.FEED2 by its bits 31:16. -/
theorem isFeed2_iff (cmd : Word) : cmd.extractLsb' 16 16 = 0x3000#16 ↔ ∃ w, cmd = encode (.ckFeed2 w) := by
  simp only [encode_ckFeed2]
  exact extractLsb'_high_eq_iff (m := 16) (n := 16)

@[simp] theorem bytesFed_ckFeed (b : Byte) : bytesFed (encode (.ckFeed b)) = [b] := by
  have himm : (encode (.ckFeed b)).extractLsb' 0 8 = b := encode_ckFeed b ▸ BitVec.extractLsb'_append_eq_right
  rw [bytesFed, if_pos ((isFeed_iff _).2 ⟨b, rfl⟩), himm]

@[simp] theorem bytesFed_ckFeed2 (w : Half) : bytesFed (encode (.ckFeed2 w)) = [hiByte w, loByte w] := by
  have hfeed : ¬ ∃ b, encode (.ckFeed2 w) = encode (.ckFeed b) := by simp [encode_inj]
  have hhi : (encode (.ckFeed2 w)).extractLsb' 8 8 = hiByte w :=
    encode_ckFeed2 w ▸ BitVec.extractLsb'_append_eq_of_add_le (by decide)
  have hlo : (encode (.ckFeed2 w)).extractLsb' 0 8 = loByte w :=
    encode_ckFeed2 w ▸ BitVec.extractLsb'_append_eq_of_add_le (by decide)
  rw [bytesFed, if_neg ((isFeed_iff _).not.2 hfeed), if_pos ((isFeed2_iff _).2 ⟨w, rfl⟩), hhi, hlo]

theorem bytesFed_eq_nil {cmd : Word} (hfeed : ∀ b, cmd ≠ encode (.ckFeed b))
    (hfeed2 : ∀ w, cmd ≠ encode (.ckFeed2 w)) : bytesFed cmd = [] := by
  rw [bytesFed, if_neg ((isFeed_iff cmd).not.2 (not_exists.2 hfeed)),
    if_neg ((isFeed2_iff cmd).not.2 (not_exists.2 hfeed2))]

/-! ### Lists of command words -/

/-- The bytes `bs`, perhaps none, have been accumulated between the states `s` and `t`. -/
def State.Accumulates (s : State) (bs : List Byte) (t : State) : Prop :=
  t.crc = crcFrom s.crc bs ∧ (t.fed = true ↔ s.fed = true ∨ bs ≠ [])

theorem State.Accumulates.append {s t u : State} {bs bs' : List Byte} (h : s.Accumulates bs t)
    (h' : t.Accumulates bs' u) : s.Accumulates (bs ++ bs') u := by
  obtain ⟨hcrc, hfed⟩ := h
  obtain ⟨hcrc', hfed'⟩ := h'
  exact ⟨by rw [hcrc', hcrc, crcFrom_append], by
    rw [hfed', hfed, or_assoc, ← not_and_or, ← List.append_eq_nil_iff]⟩

/-- A command word that is not CK.INIT accumulates the bytes it feeds. -/
theorem handle_command_accumulates {cmd : Word} {s t : State} (h : handle (.command cmd) s = .next t)
    (hinit : cmd ≠ encode .ckInit) : s.Accumulates (bytesFed cmd) t := by
  by_cases hfeed : ∃ b, cmd = encode (.ckFeed b)
  · obtain ⟨b, rfl⟩ := hfeed
    rw [handle_encode] at h
    cases h
    simp [State.Accumulates]
  by_cases hfeed2 : ∃ w, cmd = encode (.ckFeed2 w)
  · obtain ⟨w, rfl⟩ := hfeed2
    rw [handle_encode] at h
    cases h
    simp [State.Accumulates]
  · rw [not_exists] at hfeed hfeed2
    rw [bytesFed_eq_nil hfeed hfeed2]
    exact ⟨handle_crc_frame h rfl (by simpa using hinit) (by simpa using hfeed) (by simpa using hfeed2),
      by simp [handle_fed h, hfeed, hfeed2, hinit, HostEvent.resets]⟩

/-- So do any command words that are not CK.INIT, one after another. -/
theorem exists_consumes_accumulates {cmds : List Word} {s : State} {rest : List HostEvent}
    (hin : s.inputs = cmds.map .command ++ rest) (hinit : ∀ cmd ∈ cmds, cmd ≠ encode .ckInit) :
    ∃ (rs : List Word) (t : State), Consumes s (cmds.map .command) rs t ∧ s.Accumulates (cmds.flatMap bytesFed) t := by
  induction cmds generalizing s with
  | nil => exact ⟨[], s, consumes_nil s, rfl, by simp⟩
  | cons cmd cmds ih =>
    obtain ⟨hcmd, hcmds⟩ := List.forall_mem_cons.1 hinit
    obtain ⟨rs, t, -, ht, -⟩ := handle_lockstep (.refl (s.setInputs (cmds.map .command ++ rest))) (.command cmd)
    obtain ⟨rs', u, hu, hacc⟩ := ih ht.inputs hcmds
    exact ⟨rs ++ rs', u, ht.consumes_cons hin hu, (handle_command_accumulates ht.next hcmd).append hacc⟩

theorem delivers_ckInit (s : State) : s.Delivers (handle (.command (encode .ckInit)) s) [zeroResponse]
    (s.startChecksum.respond zeroResponse) :=
  ⟨handle_encode .ckInit s, rfl, rfl⟩

/-- Settles O37: CK.INIT leaves 0xFF in CRC and 0 in FED, and the words after it accumulate their bytes from there. -/
theorem accumulatedChecksumIsOfAllBytesFed : Obligations.AccumulatedChecksumIsOfAllBytesFed := by
  simp only [Obligations.AccumulatedChecksumIsOfAllBytesFed, ← encode_ckInit]
  intro s cmds rest hin hinit hbytes
  have hstart := delivers_ckInit (s.setInputs (cmds.map .command ++ rest))
  obtain ⟨rs, t, ht, hcrc, hfed⟩ := exists_consumes_accumulates hstart.inputs hinit
  exact ⟨_, t, hstart.consumes_cons hin ht, hcrc, hfed.2 (.inr hbytes)⟩

end Sys2Proof.Machine
end

section
/-! The frame formatter's commands (41_frame.md R100 to R104): the fields of what they answer, and which changes of a
group they find. -/

namespace Sys2Proof.Machine

/-! ### The fields of a group and of its response -/

theorem wordOfGroup_eq_extractLsb' (g : Group) : wordOfGroup g = g.extractLsb' 8 16 :=
  BitVec.extractLsb'_append_extractLsb'_eq_extractLsb' rfl

@[simp] theorem checkResponse_match (g : Group) : (checkResponse g).getLsbD 24 = groupMatches g :=
  getLsbD_checkResponse g 24

@[simp] theorem checkResponse_word (g : Group) : (checkResponse g).extractLsb' 0 16 = wordOfGroup g :=
  BitVec.extractLsb'_append_eq_right

@[simp] theorem packResponse_group (g : Group) : (packResponse g).extractLsb' 0 24 = g :=
  BitVec.extractLsb'_append_eq_right

theorem groupMatches_groupOf (b0 b1 k : Byte) : groupMatches (groupOf b0 b1 k) = (k == crc8 [b0, b1]) := by
  simp [groupMatches]

/-! ### FMT.PACK -/

/-- FMT.PACK, whole, its response by fields (R100). -/
theorem exec_fmtPack_eq (w : Half) (s : State) : exec (.fmtPack w) s = .next
    { s with responses := s.responses ++ [responseWord false (w.extractLsb' 8 8) (w.extractLsb' 0 8)
        (crc8 [w.extractLsb' 8 8, w.extractLsb' 0 8])] } := by
  rw [exec_fmtPack, packResponse_groupOfWord_eq]
  rfl

theorem eventsOf_map_fmtPack (ws : List Half) :
    eventsOf (ws.map .fmtPack) = ws.map fun w => .command (0x5000#16 ++ w) := by
  simp [eventsOf, encode_fmtPack]

/-- Settles O33: the response by its fields, and FMT.PACK is one of the commands of `consumes_eventsOf_map`, for which
`bad` is never true. -/
theorem packBuildsCheckedGroup : Obligations.PackBuildsCheckedGroup := by
  refine ⟨fun w => encode_fmtPack w ▸ decode_encode _, exec_fmtPack_eq, fun s => ?_, fun ws s rest hin => ?_⟩
  · have h0000 : packResponse (groupOfWord 0x0000) = 0x00000081 := by decide +kernel
    have hFFFF : packResponse (groupOfWord 0xFFFF) = 0x00FFFFAC := by decide +kernel
    have hFF00 : packResponse (groupOfWord 0xFF00) = 0x00FF0000 := by decide +kernel
    have hBEEF : packResponse (groupOfWord 0xBEEF) = 0x00BEEF92 := by decide +kernel
    rw [exec_fmtPack, exec_fmtPack, exec_fmtPack, exec_fmtPack, h0000, hFFFF, hFF00, hBEEF]
    exact ⟨rfl, rfl, rfl, rfl⟩
  · rw [← eventsOf_map_fmtPack] at hin ⊢
    have h := consumes_eventsOf_map (bad := fun _ => false) (fun w s => by rw [exec_fmtPack_eq, Bool.or_false]) hin
    rw [List.any_eq_false.2 fun _ _ => Bool.false_ne_true, Bool.or_false] at h
    exact h

/-! ### FMT.CHECK -/

/-- FMT.CHECK of any group answers by the group's own verdict and checksum. -/
theorem checkAnswers {g : Group} {matched : Bool} {c : Byte} (hmatch : groupMatches g = matched)
    (hc : computedChecksum g = c) : CheckAnswers g matched c := by
  intro s
  rw [← wordOfGroup_eq_extractLsb', ← hmatch, ← hc]
  exact exec_fmtCheck_eq g s

theorem checkAnswers_of_ne {b0 b1 k : Byte} (h : k ≠ crc8 [b0, b1]) :
    CheckAnswers (groupOf b0 b1 k) false (crc8 [b0, b1]) :=
  checkAnswers (by rwa [groupMatches_groupOf, beq_eq_false_iff_ne]) (computedChecksum_groupOf ..)

/-- Settles O34: a mismatch alone writes CKFAIL, and the response by its fields. -/
theorem checkVerifiesReceivedGroup : Obligations.CheckVerifiesReceivedGroup := by
  refine ⟨fun g => encode_fmtCheck g ▸ decode_encode _, fun g s => ?_, fun s => ?_⟩
  · rw [exec_fmtCheck_eq, checkResponse_eq]
    by_cases h : g.extractLsb' 0 8 = crc8 [g.extractLsb' 16 8, g.extractLsb' 8 8]
    · rw [if_pos h, (groupMatches_iff g).2 h, beq_iff_eq.2 h, Bool.not_true, Bool.or_false]
      rfl
    · rw [if_neg h, (groupMatches_false_iff g).2 h, beq_eq_false_iff_ne.2 h, Bool.not_false, Bool.or_true]
      rfl
  · have h000000 : groupMatches 0x000000 = false ∧ checkResponse 0x000000 = 0x00810000 := by decide +kernel
    have hFF0000 : groupMatches 0xFF0000 = true ∧ checkResponse 0xFF0000 = 0x0100FF00 := by decide +kernel
    have hBEEF92 : groupMatches 0xBEEF92 = true ∧ checkResponse 0xBEEF92 = 0x0192BEEF := by decide +kernel
    have hBEEF93 : groupMatches 0xBEEF93 = false ∧ checkResponse 0xBEEF93 = 0x0092BEEF := by decide +kernel
    simp only [exec_fmtCheck, h000000, hFF0000, hBEEF92, hBEEF93]
    exact ⟨rfl, rfl, rfl, rfl⟩

/-- Settles O38: FMT.PACK's response carries its group whole, and that group matches. -/
theorem checkOfPackRoundTrips : Obligations.CheckOfPackRoundTrips := by
  intro w s
  refine ⟨_, _, _, _, exec_fmtPack w s, rfl, exec_fmtCheck_eq _ _, rfl, ?_, ?_, ?_⟩
  · rw [packResponse_group, checkResponse_match, groupMatches_groupOfWord]
  · rw [packResponse_group, checkResponse_word, wordOfGroup_groupOfWord]
  · simp

/-- Settles O39: with one data byte fixed the checksum is injective in the other, so the old check byte is wrong for the
new byte. -/
theorem singleByteCorruptionIsDetected : Obligations.SingleByteCorruptionIsDetected := by
  have hvalid (a b : Byte) : groupMatches (groupOf a b (crc8 [a, b])) = true := by
    rw [groupMatches_groupOf, beq_self_eq_true]
  refine ⟨fun a b => ⟨checkAnswers (hvalid a b) (computedChecksum_groupOf ..), fun k hk => checkAnswers_of_ne hk,
    fun a' ha => ?_, fun b' hb => ?_⟩, checkAnswers ?_ ?_, checkAnswers ?_ ?_, checkAnswers ?_ ?_⟩
  · have hne : crc8 [a', b] ≠ crc8 [a, b] := (crc8_pair_left_injective b).ne ha
    exact ⟨_, hne, checkAnswers_of_ne hne.symm⟩
  · have hne : crc8 [a, b'] ≠ crc8 [a, b] := (crc8_pair_right_injective a).ne hb
    exact ⟨_, hne, checkAnswers_of_ne hne.symm⟩
  all_goals decide +kernel

/-! ### The residue -/

theorem crc8Step_eq_zero_iff {c b : Byte} : crc8Step c b = 0x00 ↔ b = c := by
  rw [← crc8Step_self c, (crc8Step_right_injective c).eq_iff]

theorem crc8_triple_eq_zero_iff (b0 b1 k : Byte) : crc8 [b0, b1, k] = 0x00 ↔ k = crc8 [b0, b1] := by
  rw [← crc8Step_eq_zero_iff (c := crc8 [b0, b1]), ← crc8_concat]
  rfl

/-- CK.INIT and a CK.FEED of each byte leave the checksum of the bytes. -/
theorem exists_consumes_ckInit_ckFeed {bs : List Byte} (hbs : bs ≠ []) {s : State} {rest : List HostEvent}
    (hin : s.inputs = eventsOf (.ckInit :: bs.map .ckFeed) ++ rest) :
    ∃ rs t, Consumes s (eventsOf (.ckInit :: bs.map .ckFeed)) rs t ∧ t.crc = crc8 bs := by
  have hbytes : ((bs.map .ckFeed).map encode).flatMap bytesFed = bs := by simp [List.flatMap_map]
  have hinit : ∀ cmd ∈ (bs.map .ckFeed).map encode, cmd ≠ encode .ckInit := by simp [encode_inj]
  rw [encode_ckInit] at hinit
  obtain ⟨rs, t, ht, hcrc, -⟩ := accumulatedChecksumIsOfAllBytesFed s _ rest hin hinit (by rwa [hbytes])
  exact ⟨rs, t, ht, by rw [hcrc, hbytes]⟩

/-- Settles O40: the register is 0x00 after a byte exactly when it held that byte before it. -/
theorem residueIsZeroExactlyForValidGroups : Obligations.ResidueIsZeroExactlyForValidGroups := by
  refine ⟨fun b0 b1 => (crc8_triple_eq_zero_iff b0 b1 _).2 rfl, fun s b0 b1 k rest hin => ?_⟩
  simp only [← encode_ckInit, ← encode_ckFeed] at hin ⊢
  obtain ⟨rs, t, ht, hcrc⟩ := exists_consumes_ckInit_ckFeed (List.cons_ne_nil b0 [b1, k]) hin
  refine ⟨rs, t, _, _, ht, exec_fmtCheck_eq (groupOf b0 b1 k) t, rfl, ?_⟩
  rw [hcrc, crc8_triple_eq_zero_iff, checkResponse_match, groupMatches_groupOf, beq_iff_eq]

end Sys2Proof.Machine
end

section
/-! A received payload, one FMT.CHECK per group: the verdict on the whole (41_frame.md R105), and the words (R106). -/

namespace Sys2Proof.Machine

theorem eventsOf_map_fmtCheck (gs : List Group) :
    eventsOf (gs.map .fmtCheck) = gs.map fun g => .command (0x60#8 ++ g) := by
  simp [eventsOf, encode_fmtCheck]

theorem eventsOf_ckClr_cons (is : List Instr) : eventsOf (.ckClr :: is) = .command 0x80000000 :: eventsOf is := by
  simp [eventsOf, encode_ckClr]

theorem eventsOf_append_ckStat (is : List Instr) :
    eventsOf (is ++ [.ckStat]) = eventsOf is ++ [.command 0x70000000] := by
  simp [eventsOf, encode_ckStat]

/-! ### The verdict on the whole payload -/

/-- STATUS after the groups shows a mismatch among them, or one recorded before them. -/
theorem exists_consumes_fmtCheck_ckStat {gs : List Group} {s : State} {rest : List HostEvent}
    (hin : s.inputs = eventsOf (gs.map .fmtCheck ++ [.ckStat]) ++ rest) :
    ∃ rs r t, Consumes s (eventsOf (gs.map .fmtCheck ++ [.ckStat])) (rs ++ [r]) t ∧
      r.getLsbD 1 = (s.ckfail || gs.any (!groupMatches ·)) := by
  rw [eventsOf_append, List.append_assoc] at hin
  have hchecks := consumes_eventsOf_map exec_fmtCheck_eq hin
  have hstat := hchecks.append (consumes_eventsOf_singleton rfl ⟨exec_ckStat _, rfl, rfl⟩)
  rw [← eventsOf_append] at hstat
  exact ⟨_, _, _, hstat, getLsbD_status _ 1⟩

theorem any_not_groupMatches_eq_false_iff (gs : List Group) : gs.any (!groupMatches ·) = false ↔
    ∀ g ∈ gs, g.extractLsb' 0 8 = crc8 [g.extractLsb' 16 8, g.extractLsb' 8 8] := by
  simp only [List.any_eq_false, Bool.not_eq_true, Bool.not_eq_false', groupMatches_iff]
  rfl

/-- Settles O41: STATUS shows a mismatch among the groups or from before them, and CK.CLR leaves none from before. -/
theorem payloadIsValidExactlyWhenCkfailClear : Obligations.PayloadIsValidExactlyWhenCkfailClear := by
  simp only [Obligations.PayloadIsValidExactlyWhenCkfailClear, ← eventsOf_map_fmtCheck,
    ← any_not_groupMatches_eq_false_iff]
  refine ⟨fun s gs rest hin => ?_, fun s t g r hexec hresp hmatch => ?_, fun s gs rest hin => ?_⟩
  · rw [← eventsOf_ckClr_cons, List.append_cons, ← eventsOf_append_ckStat, List.cons_append] at hin
    obtain ⟨rs, r, t, ht, -, hr⟩ := exists_consumes_fmtCheckn hin
    rw [← eventsOf_ckClr_cons, ← eventsOf_append_ckStat]
    exact ⟨rs, r, t, ht, by rw [hr]⟩
  · rw [exec_fmtCheck_eq] at hexec
    cases hexec
    obtain rfl : checkResponse g = r := List.singleton_inj.1 (List.append_cancel_left hresp)
    rw [checkResponse_match] at hmatch
    simp [hmatch]
  · rw [List.append_cons, ← eventsOf_append_ckStat] at hin
    obtain ⟨rs, r, t, ht, hr⟩ := exists_consumes_fmtCheck_ckStat hin
    rw [← eventsOf_append_ckStat]
    exact ⟨rs, r, t, ht, fun h => (Bool.or_eq_false_iff.1 (hr ▸ h)).2⟩

/-! ### The words of the payload -/

theorem length_of_groupsOfPayload {bs : List Byte} {gs : List Group} (h : groupsOfPayload bs = some gs) :
    bs.length = 3 * gs.length := by
  rw [← flatMap_groupBytes_of_groupsOfPayload h, List.length_flatMap]
  simp [groupBytes, Nat.mul_comm]

/-- The n-th group of a payload has its bytes 3n, 3n + 1 and 3n + 2. -/
theorem getElem?_of_groupsOfPayload {bs : List Byte} {gs : List Group} (h : groupsOfPayload bs = some gs) {n : Nat}
    {b0 b1 k : Byte} (h0 : bs[3 * n]? = some b0) (h1 : bs[3 * n + 1]? = some b1) (h2 : bs[3 * n + 2]? = some k) :
    gs[n]? = some (groupOf b0 b1 k) := by
  induction bs using groupsOfPayload.induct generalizing gs n with
  | case1 => simp at h0
  | case2 c0 c1 c2 rest ih =>
    obtain ⟨gs', hrest, rfl⟩ := Option.map_eq_some_iff.1 h
    cases n with
    | zero =>
      cases h0
      cases h1
      cases h2
      rfl
    | succ n => exact ih hrest h0 h1 h2
  | case3 bs hnil hcons => simp [groupsOfPayload] at h

/-- Settles O46: the responses are the groups' in payload order, each with its group's word and verdict. -/
theorem payloadWordsAreReadFromCheckResponses : Obligations.PayloadWordsAreReadFromCheckResponses := by
  simp only [Obligations.PayloadWordsAreReadFromCheckResponses, ← eventsOf_map_fmtCheck]
  intro s bs gs rest hgs hin
  refine ⟨_, _, consumes_eventsOf_map exec_fmtCheck_eq hin, ?_, fun n b0 b1 k h0 h1 h2 => ?_⟩
  · rw [List.length_map, length_of_groupsOfPayload hgs]
  · refine ⟨checkResponse (groupOf b0 b1 k), ?_, ?_, ?_⟩
    · rw [List.getElem?_map, getElem?_of_groupsOfPayload hgs h0 h1 h2, Option.map_some]
    · rw [checkResponse_word, wordOfGroup_groupOf, be16]
    · rw [checkResponse_match, groupMatches_groupOf]

end Sys2Proof.Machine
end

section
/-! The status commands (42_status.md R120, R121), and that every legal command completes in every state (R122). -/

namespace Sys2Proof.Machine

/-! ### Steps -/

/-- A step on the command word of an instruction executes the instruction. -/
theorem step_encode {s : State} {i : Instr} {rest : List HostEvent} (hin : s.inputs = .command (encode i) :: rest) :
    step s = exec i (s.setInputs rest) :=
  (step_cons hin).trans (handle_encode i _)

theorem step_illegal {s : State} {cmd : Word} {rest : List HostEvent} (hd : decode cmd = none)
    (hin : s.inputs = .command cmd :: rest) : step s = .next (s.setInputs rest).raiseIllegalCommand :=
  (step_cons hin).trans (execWord_illegal hd _)

/-- A step takes the event at the head of the ports off, and no other. -/
theorem step_inputs {s t : State} {e : HostEvent} {rest : List HostEvent} (hin : s.inputs = e :: rest)
    (h : step s = .next t) : t.inputs = rest := by
  obtain ⟨rs, t', -, ht, -⟩ := handle_lockstep (.refl (s.setInputs rest)) e
  obtain rfl : t = t' := Host.Outcome.next.inj (h.symm.trans ((step_cons hin).trans ht.next))
  exact ht.inputs

/-- Settles O7: the response is that of the command's layout (R66), whose bit 31 is 0. -/
theorem everyLegalCommandAlwaysCompletes : Obligations.EveryLegalCommandAlwaysCompletes := by
  intro s cmd rest hlegal hin
  obtain ⟨i, hd⟩ := Option.ne_none_iff_exists'.1 hlegal
  obtain ⟨t, r, hstep, hresp, -, hlayout⟩ := responseWordsFollowTheLayouts s cmd rest hin
  obtain ⟨hbit, -⟩ := hlayout i hd
  exact ⟨t, r, hstep, step_inputs hin hstep, hresp, hbit⟩

/-! ### CK.STAT and CK.CLR -/

/-- Settles O35: the response is the STATUS view, whose bit 2 is the ILL that an illegal word sets. -/
theorem statReadsStatusWithoutClearing : Obligations.StatReadsStatusWithoutClearing := by
  simp only [Obligations.StatReadsStatusWithoutClearing, ← encode_ckStat]
  refine ⟨decode_encode _, fun s => rfl, rfl, fun s cmd rest hd hin => ?_⟩
  exact ⟨_, _, _, step_illegal hd hin, (step_encode rfl).trans (exec_ckStat _), List.append_assoc ..,
    getLsbD_status _ 2⟩

/-- Settles O36: whole by definition, so with both flags 0 nothing but the response is new. -/
theorem clrClearsOnlyStickyFlags : Obligations.ClrClearsOnlyStickyFlags := by
  refine ⟨encode_ckClr ▸ decode_encode _, fun s => rfl, fun s hckfail hill => ?_⟩
  rw [exec_ckClr, Host.Outcome.next.injEq]
  apply State.eq_of_fields <;> simp [hckfail, hill, zeroResponse]

end Sys2Proof.Machine
end

section
/-! The error events (60_exceptions.md R140 to R143): what an illegal word does, how long a mismatch stays recorded, and
that a command raises at most one of the two. -/

namespace Sys2Proof.Machine

/-! ### The illegal-command event -/

/-- Settles O12: the event, whole, and then the next word is at the head of the port. -/
theorem illegalCommandOnlyRecordsItself : Obligations.IllegalCommandOnlyRecordsItself := by
  refine ⟨fun s cmd rest hd hin => step_illegal hd hin, fun s cmd cmd' i rest hd hd' hin => ?_⟩
  obtain rfl := encode_of_decode hd'
  exact ⟨_, step_illegal hd hin, step_encode (rest := rest) rfl⟩

/-! ### A mismatch stays recorded -/

theorem step_of_consumes_singleton {s t : State} {e : HostEvent} {rs : List Word} (h : Consumes s [e] rs t) :
    step s = .next t := by
  obtain ⟨-, -, hrun, -, -⟩ := h
  cases hstep : step s with
  | next s' => rwa [List.length_singleton, runSteps_succ_of_next hstep] at hrun
  | fault r => nomatch r
  | refused r => simp [runSteps, hstep] at hrun

/-- What each of the events keeps, a run of them keeps. -/
theorem Consumes.keeps {P : State → Prop} {s t : State} {es : List HostEvent} {rs : List Word}
    (hkeep : ∀ e ∈ es, ∀ (s t : State) (rest : List HostEvent), s.inputs = e :: rest → step s = .next t → P s → P t)
    (h : Consumes s es rs t) (hs : P s) : P t := by
  induction es generalizing s rs with
  | nil =>
    obtain ⟨-, rfl⟩ := (consumes_nil s).det h
    exact hs
  | cons e es ih =>
    obtain ⟨hhead, htail⟩ := List.forall_mem_cons.1 hkeep
    obtain ⟨_, _, m, hm, ht, -⟩ := consumes_append_iff (es := [e]).1 h
    have ⟨rest, hin, _⟩ := hm
    exact ih htail ht (hhead s m rest hin (step_of_consumes_singleton hm) hs)

/-- Without CK.CLR and reset, CKFAIL stays set (R23). -/
theorem Consumes.keeps_ckfail {s t : State} {es : List HostEvent} {rs : List Word} (h : Consumes s es rs t)
    (hes : ∀ e ∈ es, e.resets = false ∧ e ≠ .command (encode .ckClr)) (hs : s.ckfail = true) : t.ckfail = true := by
  refine h.keeps (P := fun s => s.ckfail = true) (fun e he s t rest hin hstep hs => ?_) hs
  exact (handle_ckfail ((step_cons hin).symm.trans hstep)).2 (.inr ⟨hs, hes e he⟩)

/-- Settles O13: the response by its fields, then `Consumes.keeps_ckfail`, and CKFAIL is bit 1 of STATUS. -/
theorem mismatchIsSurfacedUntilCleared : Obligations.MismatchIsSurfacedUntilCleared := by
  simp only [Obligations.MismatchIsSurfacedUntilCleared, ← encode_fmtCheck, ← encode_ckClr]
  intro s g rest hin hne
  have hbad : groupMatches g = false := (groupMatches_false_iff g).2 hne
  have hset : (s.ckfail || !groupMatches g) = true := by rw [hbad, Bool.not_false, Bool.or_true]
  refine ⟨_, checkResponse g, (step_encode hin).trans (exec_fmtCheck_eq g _), rfl, ?_, ?_, ?_, hset,
    fun es rs u hes hu => ?_⟩
  · rw [checkResponse_match, hbad]
  · rw [checkResponse_eq, responseWord_byte2]
    rfl
  · rw [checkResponse_word, wordOfGroup_eq_extractLsb']
  · have hu' : u.ckfail = true := hu.keeps_ckfail hes hset
    exact ⟨hu', _, _, exec_ckStat u, rfl, (getLsbD_status u 1).trans hu'⟩

/-! ### At most one event -/

section
variable {e : HostEvent} {s t : State}

/-- Only an illegal word sets ILL anew, and it writes nothing else of the tuple. -/
theorem handle_sets_ill (h : handle e s = .next t) (hs : s.ill = false) (ht : t.ill = true) :
    (∃ cmd, e = .command cmd ∧ decode cmd = none) ∧ t.crc = s.crc ∧ t.fed = s.fed ∧ t.ckfail = s.ckfail := by
  obtain ⟨cmd, rfl, hd⟩ | ⟨hs', -⟩ := (handle_ill h).1 ht
  · rw [handle_command, execWord_illegal hd] at h
    cases h
    exact ⟨⟨cmd, rfl, hd⟩, rfl, rfl, rfl⟩
  · simp [hs] at hs'

/-- Only FMT.CHECK sets CKFAIL anew, and it writes nothing else of the tuple. -/
theorem handle_sets_ckfail (h : handle e s = .next t) (hs : s.ckfail = false) (ht : t.ckfail = true) :
    (∃ g, e = .command (encode (.fmtCheck g))) ∧ t.crc = s.crc ∧ t.fed = s.fed ∧ t.ill = s.ill := by
  obtain ⟨g, rfl, -⟩ | ⟨hs', -⟩ := (handle_ckfail h).1 ht
  · rw [handle_encode, exec_fmtCheck_eq] at h
    cases h
    exact ⟨⟨g, rfl⟩, rfl, rfl, rfl⟩
  · simp [hs] at hs'

end

/-- Settles O14, by `handle_sets_ill`, `handle_sets_ckfail` and the reset values. -/
theorem oneErrorEventAtMostPerCommand : Obligations.OneErrorEventAtMostPerCommand := by
  intro s t e rest hin h
  rw [step_cons hin] at h
  refine ⟨(handle_sets_ill h :), fun hs ht => ?_, fun he => ?_⟩
  · obtain ⟨⟨g, rfl⟩, hframe⟩ := handle_sets_ckfail h hs ht
    exact ⟨⟨_, g, rfl, decode_encode _⟩, hframe⟩
  · rw [handle_resets he] at h
    cases h
    exact ⟨rfl, rfl⟩

end Sys2Proof.Machine
end

section
/-! Reset (70_reset_and_hazards.md R160, R161), and how many groups pass FMT.CHECK (R164). -/

namespace Sys2Proof.Machine

/-! ### Reset -/

/-- A step on an event with reset in it resets the unit, whatever command is cut. -/
theorem step_resets {s : State} {e : HostEvent} {rest : List HostEvent} (hin : s.inputs = e :: rest)
    (he : e.resets = true) : step s = .next (s.setInputs rest).applyReset :=
  (step_cons hin).trans (handle_resets he _)

/-- CK.INIT then CK.CLR write the whole tuple, each its half. -/
theorem ckInit_ckClr_sameTuple_reset (s : State) :
    ((s.startChecksum.respond zeroResponse).clearErrors.respond zeroResponse).SameTuple State.reset :=
  ⟨rfl, rfl, rfl, rfl⟩

/-- Settles O10: a step on a reset event leaves the reset tuple, and the command after it is then at the head of the
port. -/
theorem resetEventRestoresTheTuple : Obligations.ResetEventRestoresTheTuple := by
  refine ⟨⟨rfl, rfl, rfl, rfl⟩, fun s rest hin => step_resets hin rfl, fun s => ?_, fun s cmd i rest hin hd => ?_⟩
  · exact ⟨_, _, exec_ckInit s, exec_ckClr _, ckInit_ckClr_sameTuple_reset s⟩
  · obtain rfl := encode_of_decode hd
    exact ⟨_, step_resets hin rfl, step_encode (rest := rest) rfl⟩

/-- Settles O11: reset in an event is all the step does, and it delivers nothing. -/
theorem resetAbandonsCommandInProgress : Obligations.ResetAbandonsCommandInProgress := by
  refine ⟨fun s cmd rest hin => step_resets hin rfl, fun s t e rest hin he h => ?_⟩
  rw [step_resets hin he] at h
  cases h
  rfl

/-! ### The groups that match -/

/-- A group that passes FMT.CHECK is the one FMT.PACK gives for its word. -/
theorem groupOfWord_wordOfGroup {g : Group} (h : groupMatches g = true) : groupOfWord (wordOfGroup g) = g := by
  have hck : checksumOfWord (wordOfGroup g) = groupCheckByte g := by
    rw [(groupMatches_iff g).1 h]
    simp [checksumOfWord, wordOfGroup, computedChecksum]
  rw [groupOfWord, hck, wordOfGroup, hiByte_be16, loByte_be16, groupOf_bytes]

/-- The groups that match are the groups of words, one each. -/
def matchingGroupEquiv : {g : Group // groupMatches g = true} ≃ Half where
  toFun g := wordOfGroup g.1
  invFun w := ⟨groupOfWord w, groupMatches_groupOfWord w⟩
  left_inv g := Subtype.ext (groupOfWord_wordOfGroup g.2)
  right_inv w := wordOfGroup_groupOfWord w

theorem card_matchingGroups : (Finset.univ.filter fun g : Group => groupMatches g = true).card = 65536 := by
  calc (Finset.univ.filter fun g : Group => groupMatches g = true).card
      = Fintype.card {g : Group // groupMatches g = true} := (Fintype.card_subtype _).symm
    _ = Fintype.card Half := Fintype.card_congr matchingGroupEquiv
    _ = 2 ^ 16 := card_bitVec 16
    _ = 65536 := by norm_num

/-- Settles O42: the response's bit 24 is the group's verdict, and `card_matchingGroups` counts the groups. -/
theorem oneGroupIn256Matches : Obligations.OneGroupIn256Matches :=
  ⟨fun g s => ⟨_, checkResponse g, exec_fmtCheck_eq g s, rfl, checkResponse_match g⟩, card_matchingGroups⟩

end Sys2Proof.Machine
end

section
/-! Words of the spec by the decoder (30_encoding.md R61 to R63), and what a step is: the command that the word at the head
of the port decodes to (60_exceptions.md R143), or waiting. -/

namespace Sys2Proof

/-- RSV is checked first (R63). -/
theorem decode_eq_none_of_rsvField_ne_zero {cmd : Word} (h : rsvField cmd ≠ 0) : decode cmd = none :=
  decode_eq_none_iff.2 (.inl h)

theorem decode_eq_none_of_decodeOp {cmd : Word} (h : decodeOp cmd = none) : decode cmd = none :=
  decode_eq_none_iff.2 (.inr h)

/-- Settles O1: each legal word is the encoding of its command; an illegal one has RSV other than 0, an OP of no command
or an unused operand bit. -/
theorem specWordsDecodeAsListed : Obligations.SpecWordsDecodeAsListed := by
  refine ⟨decode_encode .ckInit, decode_encode (.ckFeed 0xBE), decode_encode (.ckFeed2 0xBEEF), decode_encode .ckRead,
    decode_encode (.fmtPack 0xBEEF), decode_encode (.fmtCheck 0xBEEF92), decode_encode .ckStat, decode_encode .ckClr,
    ?noCommand, ?rsv, ?initOperand, ?aboveByte, ?aboveHalf, ?rsvOfCheck, ?statOperand, ?allOnes⟩
  case rsv | rsvOfCheck | allOnes => exact decode_eq_none_of_rsvField_ne_zero (by decide)
  case noCommand | initOperand | aboveByte | aboveHalf | statOperand => exact decode_eq_none_of_decodeOp (by decide)

namespace Machine

theorem step_command_of_decode {s : State} {cmd : Word} {i : Instr} {rest : List HostEvent}
    (hin : s.inputs = .command cmd :: rest) (hd : decode cmd = some i) : step s = exec i (s.setInputs rest) :=
  (step_cons hin).trans (execWord_legal hd _)

@[simp] theorem State.withFetchWord_inputs (s : State) (nbits w : Nat) :
    (s.withFetchWord nbits w).inputs = .command (tableWord nbits w) :: s.inputs := rfl

/-- Taking the placed word off the port again leaves the state as it was. -/
@[simp] theorem State.withFetchWord_setInputs (s : State) (nbits w : Nat) :
    (s.withFetchWord nbits w).setInputs s.inputs = s := rfl

/-- Settles O5: both clauses by `step_command_of_decode`, the placed word being at the head of the port. -/
theorem stepRunsDecodedCommand : Obligations.StepRunsDecodedCommand := by
  refine ⟨fun s cmd i rest hin hd => step_command_of_decode hin hd, fun s nbits w i hd => ?_⟩
  rw [step_command_of_decode (s.withFetchWord_inputs nbits w) hd, State.withFetchWord_setInputs]

/-- Settles O6. -/
theorem idleUnitWaitsUnchanged : Obligations.IdleUnitWaitsUnchanged := fun _ => step_nil

end Machine

end Sys2Proof
end
